-- ==== Sys2Proof/Word.lean ====
section
/-! DEFINITION. The bit widths of HAM74 (00_scope.md R10 to R13): command words, symbols, messages, syndromes. -/

namespace Sys2Proof

/-- A command word: 32 bits, bit i on wire i of `cmd_word` (R40, R52). -/
abbrev Word := BitVec 32

/-- A symbol of up to N = 7 bits: an operand field, a codeword, a response's data (R12, R53). -/
abbrev Sym := BitVec 7

/-- A message symbol of K = 4 bits (R11). -/
abbrev Msg := BitVec 4

/-- A syndrome of N - K = 3 bits (R13). -/
abbrev Syndrome := BitVec 3

/-- A status code of 2 bits (R106). -/
abbrev StatusCode := BitVec 2

/-- One byte of a host's byte stream (R41); HAM74 itself holds no bytes (R40). -/
abbrev Byte := BitVec 8

end Sys2Proof
end

