-- ==== Sys2Proof/Syntax.lean ====
section
/-! DEFINITION. The eleven commands of 30_encoding.md R59 as one inductive type, and an assembler line as it is written (R63). -/

namespace Sys2Proof

/-- The two widths a BitVector command selects with its W bit (R53, R58). -/
inductive SymWidth where
  | w4   -- W = 0: a 4-bit symbol
  | w7   -- W = 1: a 7-bit symbol
deriving DecidableEq, Repr

/-- One constructor per row of spec/opcode_table.json. An operand field keeps its full width: the width check of R56
and the index check of R57 are made when the command executes, not by its form. -/
inductive Instr where
  | enc (a : Sym)                                                -- R85
  | dec (a : Sym)                                                -- R96
  | mdist                                                        -- R101
  | grow (idx : BitVec 3)                                        -- R81
  | synd (a : Sym)                                               -- R95
  | bxor (w : SymWidth) (a b : Sym)                              -- R73
  | popc (w : SymWidth) (a : Sym)                                -- R74
  | getb (w : SymWidth) (a : Sym) (idx : BitVec 3)               -- R75
  | setb (w : SymWidth) (a : Sym) (idx : BitVec 3) (v : Bool)    -- R76
  | flipb (w : SymWidth) (a : Sym) (idx : BitVec 3)              -- R77
  | hdist (w : SymWidth) (a b : Sym)                             -- R78
deriving DecidableEq, Repr

/-- An assembler line (R63): a mnemonic, an optional width suffix and the operands as numbers. Any text may stand in
it; `AsmLine.wellFormed` says which lines the assembler takes. -/
structure AsmLine where
  mnemonic : String
  suffix   : Option String
  operands : List Nat
deriving DecidableEq, Repr

end Sys2Proof
end

