-- ==== Sys2Proof/WellFormed.lean ====
section
/-! DEFINITION. Which instructions and which assembler lines are well formed (30_encoding.md R53, R63). -/

namespace Sys2Proof

/-- R63: "a and b must be 0..127". -/
def fitsSymField (n : Nat) : Bool := decide (n ≤ 127)

/-- R63: "i must be 0..7". -/
def fitsIdxField (n : Nat) : Bool := decide (n ≤ 7)

/-- R63: "v must be 0..1". -/
def fitsBitField (n : Nat) : Bool := decide (n ≤ 1)

/-- Every operand of the instruction fits its field of format C (R53). The fields are typed by their widths, so this
holds of every term of `Instr`; lines of text, below, can fail it. -/
def Instr.wellFormed : Instr → Bool
  | .enc a         => fitsSymField a.toNat
  | .dec a         => fitsSymField a.toNat
  | .mdist         => true
  | .grow idx      => fitsIdxField idx.toNat
  | .synd a        => fitsSymField a.toNat
  | .bxor _ a b    => fitsSymField a.toNat && fitsSymField b.toNat
  | .popc _ a      => fitsSymField a.toNat
  | .getb _ a i    => fitsSymField a.toNat && fitsIdxField i.toNat
  | .setb _ a i v  => fitsSymField a.toNat && fitsIdxField i.toNat && fitsBitField v.toNat
  | .flipb _ a i   => fitsSymField a.toNat && fitsIdxField i.toNat
  | .hdist _ a b   => fitsSymField a.toNat && fitsSymField b.toNat

/-- The mnemonics that take a width suffix, `.4` or `.7`, and must have it (R63, R64). -/
def suffixedMnemonics : List String := ["BXOR", "POPC", "GETB", "SETB", "FLIPB", "HDIST", "CLRB"]

/-- The suffix is as the mnemonic asks: mandatory on the BitVector mnemonics, refused on the others (R63). -/
def AsmLine.suffixOk (l : AsmLine) : Bool :=
  if l.mnemonic ∈ suffixedMnemonics then l.suffix == some "4" || l.suffix == some "7" else l.suffix == none

/-- The operands are as many as the form has, and each fits its field (R63, R64). -/
def AsmLine.operandsOk (l : AsmLine) : Bool :=
  match l.operands with
  | []        => l.mnemonic ∈ ["MDIST"]
  | [x]       => (l.mnemonic ∈ ["ENC", "DEC", "SYND", "POPC"] && fitsSymField x)
                 || (l.mnemonic ∈ ["GROW"] && fitsIdxField x)
  | [x, y]    => (l.mnemonic ∈ ["BXOR", "HDIST"] && fitsSymField x && fitsSymField y)
                 || (l.mnemonic ∈ ["GETB", "FLIPB", "CLRB"] && fitsSymField x && fitsIdxField y)
  | [x, y, z] => l.mnemonic ∈ ["SETB"] && fitsSymField x && fitsIdxField y && fitsBitField z
  | _         => false

/-- The lines the assembler takes (R63, R64): every other mnemonic, suffix, operand count or operand value is refused. -/
def AsmLine.wellFormed (l : AsmLine) : Bool := l.suffixOk && l.operandsOk

end Sys2Proof
end

