-- ==== Sys2Proof/Decode.lean ====
section
/-! DEFINITION. Format C (30_encoding.md): the fields of a word, the opcode map with its match and mask values, the
decoder, total on all words and rejecting by name, and the encoder. -/

namespace Sys2Proof

/-- cmd.OP = w[3:0] (R54). -/
def opField (w : Word) : BitVec 4 := w.extractLsb' 0 4

/-- cmd.A = w[10:4] (R54). -/
def aField (w : Word) : Sym := w.extractLsb' 4 7

/-- cmd.B = w[17:11] (R54). -/
def bField (w : Word) : Sym := w.extractLsb' 11 7

/-- cmd.IDX = w[20:18] (R54). -/
def idxField (w : Word) : BitVec 3 := w.extractLsb' 18 3

/-- cmd.V = w[21] (R54). -/
def vField (w : Word) : BitVec 1 := w.extractLsb' 21 1

/-- cmd.W = w[22] (R54). -/
def wField (w : Word) : BitVec 1 := w.extractLsb' 22 1

/-- cmd.RSVD = w[31:23] (R54). -/
def rsvdField (w : Word) : BitVec 9 := w.extractLsb' 23 9

/-- The word with RSVD = 0 and the given fields: zext_32({RSVD, W, V, IDX, B, A, OP}) (R54). -/
def assembleFields (w v : BitVec 1) (idx : BitVec 3) (b a : Sym) (op : BitVec 4) : Word :=
  (0#9 ++ w ++ v ++ idx ++ b ++ a ++ op).setWidth 32

/-- The operations of the opcode map, one per row (R59). -/
inductive Op where
  | enc | dec | mdist | grow | synd | bxor | popc | getb | setb | flipb | hdist
deriving DecidableEq, Repr

/-- A row of the opcode map: an operation, its match value and its mask (R59). -/
structure OpRow where
  op    : Op
  value : Word
  mask  : Word
deriving DecidableEq, Repr

/-- The opcode map, row by row as R59 and spec/opcode_table.json print it. -/
def opTable : List OpRow :=
  [ ⟨.enc,   0x00000001#32, 0xFFFFF80F#32⟩,
    ⟨.dec,   0x00000002#32, 0xFFFFF80F#32⟩,
    ⟨.mdist, 0x00000003#32, 0xFFFFFFFF#32⟩,
    ⟨.grow,  0x00000004#32, 0xFFE3FFFF#32⟩,
    ⟨.synd,  0x00000005#32, 0xFFFFF80F#32⟩,
    ⟨.bxor,  0x00000006#32, 0xFFBC000F#32⟩,
    ⟨.popc,  0x00000007#32, 0xFFBFF80F#32⟩,
    ⟨.getb,  0x00000008#32, 0xFFA3F80F#32⟩,
    ⟨.setb,  0x00000009#32, 0xFF83F80F#32⟩,
    ⟨.flipb, 0x0000000A#32, 0xFFA3F80F#32⟩,
    ⟨.hdist, 0x0000000B#32, 0xFFBC000F#32⟩ ]

/-- A row selects the words with (w & mask) == match (R60). -/
def OpRow.selects (r : OpRow) (w : Word) : Bool := w &&& r.mask == r.value

/-- width(w) of R58 as a constructor: W = 0 selects 4 bits, W = 1 selects 7. -/
def widthOfBit (w : BitVec 1) : SymWidth := if w = 0#1 then .w4 else .w7

/-- The W bit that selects a width (R58). -/
def bitOfWidth : SymWidth → BitVec 1
  | .w4 => 0#1
  | .w7 => 1#1

/-- The instruction of an operation with the fields of a word (R54, R59). -/
def buildInstr (op : Op) (w : Word) : Instr :=
  match op with
  | .enc   => .enc (aField w)
  | .dec   => .dec (aField w)
  | .mdist => .mdist
  | .grow  => .grow (idxField w)
  | .synd  => .synd (aField w)
  | .bxor  => .bxor (widthOfBit (wField w)) (aField w) (bField w)
  | .popc  => .popc (widthOfBit (wField w)) (aField w)
  | .getb  => .getb (widthOfBit (wField w)) (aField w) (idxField w)
  | .setb  => .setb (widthOfBit (wField w)) (aField w) (idxField w) (vField w == 1#1)
  | .flipb => .flipb (widthOfBit (wField w)) (aField w) (idxField w)
  | .hdist => .hdist (widthOfBit (wField w)) (aField w) (bField w)

/-- Why a word is illegal: the causes R61 lists. -/
inductive DecodeError where
  /-- OP = 0x0 or OP in 0xC..0xF. -/
  | unassignedOp
  /-- RSVD ≠ 0, OP assigned. -/
  | reservedBits
  /-- OP assigned, RSVD = 0, and a field its row marks must-be-zero is not. -/
  | mustBeZero
deriving DecidableEq, Repr

/-- The name of the rejection of a word that no row selects. A word can have several of the causes; which of them
names it is the model's choice (log 15), and every one of them answers ILLEGAL. -/
def rejection (w : Word) : DecodeError :=
  if opField w = 0x0#4 ∨ 0xC#4 ≤ opField w then .unassignedOp
  else if rsvdField w ≠ 0#9 then .reservedBits
  else .mustBeZero

/-- Decoding: the operation of the row that selects the word, or a rejection by name (R60, R61, R62). -/
def decodeWord (w : Word) : Except DecodeError Instr :=
  match opTable.find? (fun r => r.selects w) with
  | some r => .ok (buildInstr r.op w)
  | none   => .error (rejection w)

/-- The word of an instruction, field by field from R59: every field that is no operand is zero. -/
def encode : Instr → Word
  | .enc a         => assembleFields 0#1 0#1 0#3 0#7 a 0x1#4
  | .dec a         => assembleFields 0#1 0#1 0#3 0#7 a 0x2#4
  | .mdist         => assembleFields 0#1 0#1 0#3 0#7 0#7 0x3#4
  | .grow i        => assembleFields 0#1 0#1 i 0#7 0#7 0x4#4
  | .synd a        => assembleFields 0#1 0#1 0#3 0#7 a 0x5#4
  | .bxor w a b    => assembleFields (bitOfWidth w) 0#1 0#3 b a 0x6#4
  | .popc w a      => assembleFields (bitOfWidth w) 0#1 0#3 0#7 a 0x7#4
  | .getb w a i    => assembleFields (bitOfWidth w) 0#1 i 0#7 a 0x8#4
  | .setb w a i v  => assembleFields (bitOfWidth w) (BitVec.ofBool v) i 0#7 a 0x9#4
  | .flipb w a i   => assembleFields (bitOfWidth w) 0#1 i 0#7 a 0xA#4
  | .hdist w a b   => assembleFields (bitOfWidth w) 0#1 0#3 b a 0xB#4

/-- The operation an instruction is a form of. -/
def Instr.op : Instr → Op
  | .enc _       => .enc
  | .dec _       => .dec
  | .mdist       => .mdist
  | .grow _      => .grow
  | .synd _      => .synd
  | .bxor _ _ _  => .bxor
  | .popc _ _    => .popc
  | .getb _ _ _  => .getb
  | .setb _ _ _ _ => .setb
  | .flipb _ _ _ => .flipb
  | .hdist _ _ _ => .hdist

/-- What the decoder reads from the low `nbits` bits of `w`, every bit above them zero. A command is one 32-bit word
(R52), so a number that needs more bits is no command. -/
def decodeTableWord (nbits w : Nat) : Option Instr :=
  let n := w % 2 ^ nbits
  if n < 2 ^ 32 then
    match decodeWord (BitVec.ofNat 32 n) with
    | .ok i    => some i
    | .error _ => none
  else none

end Sys2Proof
end

