-- ==== Sys2Proof/Config.lean ====
section
/-! DEFINITION. What is fixed for the machine and not by its state: the open parameter LATENCY (R130) and the free
values of what the spec leaves unspecified (R32, R38, R126). Every constant here that the spec leaves open is opaque. -/

namespace Sys2Proof.Config

/-- LATENCY(op) - 1 for each OP code (R130): no value is fixed, so the constant has no body. -/
opaque latencyPred : BitVec 4 → Nat

/-- LATENCY(op) of the word's OP field (R31, R130): positive and finite, otherwise open (log 2). -/
def latency (op : BitVec 4) : Nat := latencyPred op + 1

/-- The k-th free value of PEND, where R38 or R126 leaves it unspecified (log 4, log 5). -/
opaque freePend : Nat → Word

/-- The k-th free value of the EXEC-cycle counter (R38; log 4, log 5). -/
opaque freeCycles : Nat → Nat

/-- The k-th free value of PHASE before the first reset (R126; log 5, log 8), as a number modulo 3. -/
opaque freePhase : Nat → Nat

/-- The k-th free value of RSP_STATUS before the first reset (R126; log 5, log 8). -/
opaque freeRspStatus : Nat → StatusCode

/-- The k-th free value of RSP_DATA before the first reset (R126; log 5, log 8). -/
opaque freeRspData : Nat → Sym

/-- The k-th free value of the wire `cmd_ready` before the first reset (R126; log 8). -/
opaque freeCmdReady : Nat → Bool

/-- The k-th free value of the wire `rsp_valid` before the first reset (R126; log 8). -/
opaque freeRspValid : Nat → Bool

/-- The k-th free value of the wires `rsp_status` where R32 leaves them unspecified (U5; log 6). -/
opaque freeStatusWire : Nat → StatusCode

/-- The k-th free value of the wires `rsp_data` where R32 leaves them unspecified (U5; log 6). -/
opaque freeDataWire : Nat → Sym

end Sys2Proof.Config
end

