-- ==== Sys2Proof/Machine/State.lean ====
section
/-! DEFINITION. The state of HAM74 and of the host at its ports, as plain data; reset; the ways a step can stop. -/

namespace Sys2Proof.Machine

/-- PHASE (R30). -/
inductive Phase where
  | idle
  | exec
  | resp
deriving DecidableEq, Repr

/-- The generator ROM: K = 4 rows of N = 7 bits (R26). -/
structure Grom where
  row0 : Sym
  row1 : Sym
  row2 : Sym
  row3 : Sym
deriving DecidableEq, Repr

/-- The values GROM holds (R27). -/
def Grom.rom : Grom := ⟨0x07#7, 0x19#7, 0x2A#7, 0x4B#7⟩

/-- A response: a 2-bit status and a 7-bit result (R24, R106). -/
structure Response where
  status : StatusCode
  data   : Sym
deriving DecidableEq, Repr

/-- What the host drives on the input ports before one rising edge of `clk` (R24). `rspRead` is no wire: it says that the
host looks at `rsp_status` or `rsp_data` there, which R32 and R129 (b) forbid while rsp_valid = 0 (log 6). -/
structure PortSample where
  rst      : Bool
  cmdValid : Bool
  cmdWord  : Word
  rspReady : Bool
  rspRead  : Bool
deriving DecidableEq, Repr

/-- HAM74's state (R30), the first six fields, and the model's record of the host and of the run, the others. -/
structure State where
  /-- GROM (R26, R30). -/
  grom        : Grom
  /-- PHASE (R30). -/
  phase       : Phase
  /-- PEND, the accepted command word (R30). -/
  pend        : Word
  /-- The EXEC-cycle counter (R30, R37), kept as the number of edges to go until PHASE becomes RESP (log 3). -/
  cycles      : Nat
  /-- RSP_STATUS (R30). -/
  rspStatus   : StatusCode
  /-- RSP_DATA (R30). -/
  rspData     : Sym
  /-- The host's port samples to come, one an edge, the next first (log 1). -/
  inputs      : List PortSample
  /-- The number of edges taken; it numbers the free values (log 5). -/
  edges       : Nat
  /-- The word the host has offered and HAM74 has not taken, for R129 (a) (log 7). -/
  offered     : Option Word
  /-- A reset edge has happened, for R126 and R129 (d) (log 8). -/
  resetDone   : Bool
  /-- The commands accepted since the last reset, oldest first (R131; log 9). -/
  accepted    : List Word
  /-- The responses transferred since the last reset, oldest first (R131; log 9). -/
  responses   : List Response
  /-- The status of every non-OK response transferred, oldest first; no step clears it (R116; log 9). -/
  faultRecord : List StatusCode
deriving DecidableEq, Repr

/-- Why a step stops with a fault. -/
inductive Fault where
  /-- Raised by a clock edge at which the host looks at the response outputs while they hold no response (R32, R129 (b),
  U5). Safe: the spec asks a model for this fault. -/
  | rspReadWhileInvalid
deriving DecidableEq, Repr

/-- Why a step is refused. -/
inductive Refusal where
  /-- Raised by an arm of exec whose instruction has no meaning yet; none is left. Safe. -/
  | notModelled (mnemonic : String)
  /-- Raised by a clock edge at which the host drops `cmd_valid` or changes `cmd_word` before the transfer (R129 (a), U9).
  Safe: the spec asks a model to refuse such a host. -/
  | offerNotHeld
  /-- Raised by a clock edge at which the host presents a command before the first reset (R126, R129 (d), U6).
  Safe: the spec asks a model to refuse it. -/
  | commandBeforeReset
deriving DecidableEq, Repr

/-- The machine right after reset (R38, R126). PEND and the counter are unspecified there and hold 0 here (DESIGN CHOICE,
log 4); the host has nothing to drive and nothing is recorded (log 1, log 9). -/
def State.reset : State where
  grom        := Grom.rom
  phase       := .idle
  pend        := 0#32
  cycles      := 0
  rspStatus   := 0#2
  rspData     := 0#7
  inputs      := []
  edges       := 0
  offered     := none
  resetDone   := true
  accepted    := []
  responses   := []
  faultRecord := []

end Sys2Proof.Machine
end

