-- ==== Sys2Proof/Machine/Flags.lean ====
section
/-! DEFINITION. HAM74 has no flags and no condition codes (R22); the only status is RSP_STATUS. This file holds its codes
and the errors behind them (60_exceptions.md R106 to R109). -/

namespace Sys2Proof.Machine

/-- The errors a command can raise (R107, R108, R109). -/
inductive CodecError where
  | illegalCommand
  | widthMismatch
  | indexOutOfRange
deriving DecidableEq, Repr

/-- Status 0, OK: the operation completed (R106). -/
def statusOk : StatusCode := 0#2

/-- The status code of an error (R106). -/
def CodecError.code : CodecError → StatusCode
  | .illegalCommand  => 1#2
  | .widthMismatch   => 2#2
  | .indexOutOfRange => 3#2

/-- What an operation answers: its 7-bit result, or the error it raises (R17). -/
abbrev Answer := Except CodecError Sym

/-- `respond(OK, data)`, or `raise`: the code of the error with data 0 (R17, R105). -/
def responseOf : Answer → Response
  | .ok d    => ⟨statusOk, d⟩
  | .error e => ⟨e.code, 0#7⟩

end Sys2Proof.Machine
end

