-- ==== Sys2Proof/Machine/Operands.lean ====
section
/-! DEFINITION. Operand forms (30_encoding.md R55 to R58): widths, the width check and the index check. -/

namespace Sys2Proof.Machine

/-- width(w) = 4 if w == 0 else 7 (R58). -/
def widthNat : SymWidth → Nat
  | .w4 => 4
  | .w7 => 7

/-- fits(x, W) = (W == 7) or (x[6:4] == 0) (R56). -/
def fits (x : Sym) (w : SymWidth) : Bool := w == .w7 || x.extractLsb' 4 3 == 0#3

/-- The 4-bit symbol in A[3:0] (R55). -/
def lowNibble (x : Sym) : Msg := x.extractLsb' 0 4

/-- A bit zero-extended to a response's data: the bit in data[0] (R75). -/
def zextBit (b : Bool) : Sym := (BitVec.ofBool b).setWidth 7

/-- A failed width check raises WidthMismatch before anything else is looked at (R56, R108, R110). -/
def checkWidth (ok : Bool) (rest : Answer) : Answer := if ok then rest else .error .widthMismatch

/-- A failed index check raises IndexOutOfRange (R57, R109). -/
def checkIndex (idx : BitVec 3) (bound : Nat) (rest : Answer) : Answer :=
  if idx.toNat < bound then rest else .error .indexOutOfRange

end Sys2Proof.Machine
end

