-- ==== Sys2Proof/Machine/Ops.lean ====
section
/-! DEFINITION. The named operations: reading GROM, giving a response, raising an error (HAM74's only exception entry),
and what one clock edge does to each piece of state. -/

namespace Sys2Proof.Machine

/-- GROM[i] (R17, R26): rows 0..3, and no other index reaches it (R36). -/
def Grom.row (g : Grom) (i : Nat) : Sym :=
  match i with
  | 0 => g.row0
  | 1 => g.row1
  | 2 => g.row2
  | _ => g.row3

/-- (RSP_STATUS, RSP_DATA) <- r and PHASE <- RESP: the end of an operation (R17, R31). -/
def State.answer (s : State) (r : Response) : State :=
  { s with rspStatus := r.status, rspData := r.data, phase := .resp }

/-- `respond(status, data)`: ends the operation with its one response (R17). -/
def respond (r : Response) (s : State) : Host.Outcome State Fault Refusal := .next (s.answer r)

/-- `raise <Error>`: a response with the error's code and data 0, and nothing else (R17, R105). This is all there is of
taking an exception: nothing is saved, no mode changes, control goes nowhere (R105, R114), and there is no return (R115). -/
def raise (e : CodecError) (s : State) : Host.Outcome State Fault Refusal := respond (responseOf (.error e)) s

/-- An operation ends with its result or raises its error (R17, R62). -/
def finish (a : Answer) (s : State) : Host.Outcome State Fault Refusal :=
  match a with
  | .ok d    => respond (responseOf (.ok d)) s
  | .error e => raise e s

/-- What a host at rest drives: no reset, no response taken or looked at, and an offer it has made kept up as R129 (a) asks
(log 1). -/
def State.restSample (s : State) : PortSample where
  rst      := false
  cmdValid := s.offered.isSome
  cmdWord  := s.offered.getD 0#32
  rspReady := false
  rspRead  := false

/-- The port sample of the coming edge (log 1). -/
def State.sample (s : State) : PortSample :=
  match s.inputs with
  | p :: _ => p
  | []     => s.restSample

/-- R129 (a): an offer made is held, `cmd_valid` = 1 and the word unchanged, until it transfers. -/
def State.offerHeld (s : State) (p : PortSample) : Bool :=
  match s.offered with
  | none   => true
  | some w => p.cmdValid && p.cmdWord == w

/-- `cmd_ready` (R30); 0 during reset (R124); any value before the first reset (R126; log 8). -/
def State.cmdReady (s : State) : Bool :=
  if s.sample.rst then false
  else if s.resetDone then s.phase == .idle
  else Config.freeCmdReady s.edges

/-- `rsp_valid` (R30); 0 during reset (R124); any value before the first reset (R126; log 8). -/
def State.rspValid (s : State) : Bool :=
  if s.sample.rst then false
  else if s.resetDone then s.phase == .resp
  else Config.freeRspValid s.edges

/-- The response outputs hold a response: after the first reset and with rsp_valid = 1 (R31, R32, R124, R126). -/
def State.holdsResponse (s : State) : Bool := s.resetDone && !s.sample.rst && s.phase == .resp

/-- The output ports (R24). -/
structure OutputPorts where
  cmdReady  : Bool
  rspValid  : Bool
  rspStatus : StatusCode
  rspData   : Sym
deriving DecidableEq, Repr

/-- The values on the output ports before the coming edge: `rsp_status` = RSP_STATUS and `rsp_data` = RSP_DATA while they
hold a response (R31), any value otherwise (R32, U5; log 6). -/
def State.outputs (s : State) : OutputPorts where
  cmdReady  := s.cmdReady
  rspValid  := s.rspValid
  rspStatus := if s.holdsResponse then s.rspStatus else Config.freeStatusWire s.edges
  rspData   := if s.holdsResponse then s.rspData else Config.freeDataWire s.edges

/-- The edge passes: its port sample is used up, and an offer it carries stands until it transfers (R129 (a)). -/
def State.tick (s : State) : State :=
  { s with
    inputs  := s.inputs.tail
    edges   := s.edges + 1
    offered := if s.sample.cmdValid then some s.sample.cmdWord else none }

/-- A command transfers: PEND <- cmd_word, PHASE <- EXEC, LATENCY edges to go (R31, R130). -/
def State.accept (s : State) (w : Word) : State :=
  { s with
    pend     := w
    phase    := .exec
    cycles   := Config.latency (opField w)
    offered  := none
    accepted := s.accepted ++ [w] }

/-- An EXEC cycle passes (R30, R31). -/
def State.countDown (s : State) : State := { s with cycles := s.cycles - 1 }

/-- A response transfers: PHASE <- IDLE (R31). The host has the response, and records a non-OK one as a fault (R116). -/
def State.takeResponse (s : State) : State :=
  { s with
    phase       := .idle
    responses   := s.responses ++ [⟨s.rspStatus, s.rspData⟩]
    faultRecord := if s.rspStatus = statusOk then s.faultRecord else s.faultRecord ++ [s.rspStatus] }

/-- What an edge with rst = 1 loads (R38, R123): PHASE, RSP_STATUS and RSP_DATA; PEND and the counter are unspecified, a
free value each (log 4, log 5). A new run begins (R131); the fault record stays (R116). -/
def State.loadReset (s : State) : State :=
  { s with
    phase     := .idle
    pend      := Config.freePend s.edges
    cycles    := Config.freeCycles s.edges
    rspStatus := 0#2
    rspData   := 0#7
    resetDone := true
    accepted  := []
    responses := [] }

/-- A phase by number, to read a free value of PHASE. -/
def phaseOfNat (n : Nat) : Phase :=
  match n % 3 with
  | 0 => .idle
  | 1 => .exec
  | _ => .resp

/-- An edge without reset before the first reset: all of HAM74 but GROM is unspecified, a free value each (R126; log 8). -/
def State.unspecified (s : State) : State :=
  { s with
    phase     := phaseOfNat (Config.freePhase s.edges)
    pend      := Config.freePend s.edges
    cycles    := Config.freeCycles s.edges
    rspStatus := Config.freeRspStatus s.edges
    rspData   := Config.freeRspData s.edges }

/-- The state in which the coming edge is the last EXEC cycle of the command w, with a host at rest (log 11). -/
def State.loadCommand (s : State) (w : Word) : State :=
  { s with
    phase     := .exec
    pend      := w
    cycles    := 1
    resetDone := true
    inputs    := s.restSample :: s.inputs }

end Sys2Proof.Machine
end

