-- ==== Sys2Proof/Machine/BitVector.lean ====
section
/-! DEFINITION. The BitVector primitive (40_bitvector.md): its functions (R66 to R72) and its six commands (R73 to R78). -/

namespace Sys2Proof.Machine

/-- 2^W - 1, the ones of a symbol of width W (R68). -/
def widthMask (w : SymWidth) : Sym := BitVec.ofNat 7 (2 ^ widthNat w - 1)

/-- bv_get(v, i, W) for i < W: v[i] (R67). -/
def bvGet (v : Sym) (i : Nat) : Bool := v.getLsbD i

/-- bv_set(v, i, b, W) = (v & ~(1 << i) & (2^W - 1)) | (b << i), for i < W (R68). -/
def bvSet (v : Sym) (i : Nat) (b : Bool) (w : SymWidth) : Sym :=
  (v &&& ~~~(1#7 <<< i) &&& widthMask w) ||| (zextBit b <<< i)

/-- bv_xor(a, b, W) = a ^ b (R69). -/
def bvXor (a b : Sym) : Sym := a ^^^ b

/-- bv_popcount(v, W): the number of i in 0..W-1 with v[i] = 1 (R70). -/
def bvPopcount (v : Sym) (w : SymWidth) : Nat := ((List.range (widthNat w)).filter (fun i => v.getLsbD i)).length

/-- bv_flip(v, i, W) = v ^ (1 << i), for i < W (R71). -/
def bvFlip (v : Sym) (i : Nat) : Sym := v ^^^ (1#7 <<< i)

/-- hamming(a, b, W) = bv_popcount(bv_xor(a, b, W), W) (R72). -/
def hamming (a b : Sym) (w : SymWidth) : Nat := bvPopcount (bvXor a b) w

/-- What BXOR answers (R73). -/
def bxorAnswer (w : SymWidth) (a b : Sym) : Answer :=
  checkWidth (fits a w && fits b w) (.ok (bvXor a b))

/-- What POPC answers (R74). -/
def popcAnswer (w : SymWidth) (a : Sym) : Answer :=
  checkWidth (fits a w) (.ok (BitVec.ofNat 7 (bvPopcount a w)))

/-- What GETB answers: width before index (R75, R110). -/
def getbAnswer (w : SymWidth) (a : Sym) (idx : BitVec 3) : Answer :=
  checkWidth (fits a w) (checkIndex idx (widthNat w) (.ok (zextBit (bvGet a idx.toNat))))

/-- What SETB answers (R76). -/
def setbAnswer (w : SymWidth) (a : Sym) (idx : BitVec 3) (v : Bool) : Answer :=
  checkWidth (fits a w) (checkIndex idx (widthNat w) (.ok (bvSet a idx.toNat v w)))

/-- What FLIPB answers (R77). -/
def flipbAnswer (w : SymWidth) (a : Sym) (idx : BitVec 3) : Answer :=
  checkWidth (fits a w) (checkIndex idx (widthNat w) (.ok (bvFlip a idx.toNat)))

/-- What HDIST answers (R78). -/
def hdistAnswer (w : SymWidth) (a b : Sym) : Answer :=
  checkWidth (fits a w && fits b w) (.ok (BitVec.ofNat 7 (hamming a b w)))

/-- BXOR (R73). -/
def execBxor (w : SymWidth) (a b : Sym) (s : State) : Host.Outcome State Fault Refusal := finish (bxorAnswer w a b) s

/-- POPC (R74). -/
def execPopc (w : SymWidth) (a : Sym) (s : State) : Host.Outcome State Fault Refusal := finish (popcAnswer w a) s

/-- GETB (R75). -/
def execGetb (w : SymWidth) (a : Sym) (idx : BitVec 3) (s : State) : Host.Outcome State Fault Refusal :=
  finish (getbAnswer w a idx) s

/-- SETB (R76). -/
def execSetb (w : SymWidth) (a : Sym) (idx : BitVec 3) (v : Bool) (s : State) : Host.Outcome State Fault Refusal :=
  finish (setbAnswer w a idx v) s

/-- FLIPB (R77). -/
def execFlipb (w : SymWidth) (a : Sym) (idx : BitVec 3) (s : State) : Host.Outcome State Fault Refusal :=
  finish (flipbAnswer w a idx) s

/-- HDIST (R78). -/
def execHdist (w : SymWidth) (a b : Sym) (s : State) : Host.Outcome State Fault Refusal := finish (hdistAnswer w a b) s

end Sys2Proof.Machine
end

