-- ==== Sys2Proof/Machine/Decoder.lean ====
section
/-! DEFINITION. The syndrome decoder (43_decoder.md). -/

namespace Sys2Proof.Machine

/-- One round of syndrome's loop: if r[i] is set, XOR i + 1 into the accumulator (R90). -/
def syndromeRound (r : Sym) (acc : Syndrome) (i : Nat) : Syndrome :=
  if r.getLsbD i then acc ^^^ BitVec.ofNat 3 (i + 1) else acc

/-- syndrome(r), i from 0 to 6 (R90). -/
def syndrome (r : Sym) : Syndrome := [0, 1, 2, 3, 4, 5, 6].foldl (syndromeRound r) 0#3

/-- correct(r): flips the bit at syndrome - 1 if the syndrome is nonzero (R92). -/
def correct (r : Sym) : Sym :=
  let s := syndrome r
  if s ≠ 0#3 then r ^^^ (1#7 <<< (s.toNat - 1)) else r

/-- extract(c) = {c[2], c[4], c[5], c[6]} (R93; the bit-0 reading of 90_conflicts.md C1). -/
def extractMsg (c : Sym) : Msg :=
  BitVec.ofBool (c.getLsbD 2) ++ BitVec.ofBool (c.getLsbD 4) ++ BitVec.ofBool (c.getLsbD 5) ++ BitVec.ofBool (c.getLsbD 6)

/-- decode(r) = extract(correct(r)), for every r (R94, R97; 90_conflicts.md C3). -/
def decodeSym (r : Sym) : Msg := extractMsg (correct r)

/-- What SYND answers (R95). -/
def syndAnswer (a : Sym) : Answer := .ok ((syndrome a).setWidth 7)

/-- What DEC answers (R96): no word raises an error (R111). -/
def decAnswer (a : Sym) : Answer := .ok ((decodeSym a).setWidth 7)

/-- SYND (R95). -/
def execSynd (a : Sym) (s : State) : Host.Outcome State Fault Refusal := finish (syndAnswer a) s

/-- DEC (R96). -/
def execDec (a : Sym) (s : State) : Host.Outcome State Fault Refusal := finish (decAnswer a) s

end Sys2Proof.Machine
end

