-- ==== Sys2Proof/Machine/Encoder.lean ====
section
/-! DEFINITION. The encoder (42_encoder.md). -/

namespace Sys2Proof.Machine

/-- One round of encode's loop: if s[3 - i] is set, XOR GROM[i] into the output (R84). -/
def encodeRound (g : Grom) (s : Msg) (out : Sym) (i : Nat) : Sym :=
  if s.getLsbD (3 - i) then out ^^^ g.row i else out

/-- encode(s): the GF(2) product of the message with GROM, i from 0 to 3 (R84). -/
def encodeMsg (g : Grom) (s : Msg) : Sym := [0, 1, 2, 3].foldl (encodeRound g s) 0#7

/-- What ENC answers: WidthMismatch if A[6:4] ≠ 0, else encode(A[3:0]) (R85). -/
def encAnswer (g : Grom) (a : Sym) : Answer := checkWidth (fits a .w4) (.ok (encodeMsg g (lowNibble a)))

/-- ENC (R85). -/
def execEnc (a : Sym) (s : State) : Host.Outcome State Fault Refusal := finish (encAnswer s.grom a) s

end Sys2Proof.Machine
end

