-- ==== Sys2Proof/Machine/Distance.lean ====
section
/-! DEFINITION. The distance analyzer (44_distance.md). -/

namespace Sys2Proof.Machine

/-- The codewords of all 16 messages, in order (R100). -/
def codewords (g : Grom) : List Sym := (List.range 16).map (fun s => encodeMsg g (BitVec.ofNat 4 s))

/-- The best distance so far, lowered by one codeword against each of those after it (R100). -/
def lowerBest (c : Sym) (rest : List Sym) (best : Nat) : Nat := rest.foldl (fun m d => min m (hamming c d .w7)) best

/-- The minimum over the unordered pairs of a list, from a starting value (R100). -/
def minOverPairs : List Sym → Nat → Nat
  | [],        best => best
  | c :: rest, best => minOverPairs rest (lowerBest c rest best)

/-- minDistance(): the enumeration of R100, from the value 7. -/
def minDistance (g : Grom) : Nat := minOverPairs (codewords g) 7

/-- What MDIST answers (R101). -/
def mdistAnswer (g : Grom) : Answer := .ok (BitVec.ofNat 7 (minDistance g))

/-- MDIST (R101). -/
def execMdist (s : State) : Host.Outcome State Fault Refusal := finish (mdistAnswer s.grom) s

end Sys2Proof.Machine
end

