-- ==== Sys2Proof/Machine/Generator.lean ====
section
/-! DEFINITION. The generator matrix read row by row (41_generator.md). -/

namespace Sys2Proof.Machine

/-- What GROW answers: GROM[IDX], IndexOutOfRange from 4 on (R81). -/
def growAnswer (g : Grom) (idx : BitVec 3) : Answer := checkIndex idx 4 (.ok (g.row idx.toNat))

/-- GROW (R81). -/
def execGrow (idx : BitVec 3) (s : State) : Host.Outcome State Fault Refusal := finish (growAnswer s.grom idx) s

/-- generator(code): the four rows in order (R80). -/
def generatorRows (g : Grom) : List Sym := [g.row 0, g.row 1, g.row 2, g.row 3]

end Sys2Proof.Machine
end

