-- ==== Sys2Proof/Machine/Dispatch.lean ====
section
/-! DEFINITION. The operation of a decoded command (R62): one direct call of a meaning per constructor. -/

namespace Sys2Proof.Machine

def exec (i : Instr) (s : State) : Host.Outcome State Fault Refusal :=
  match i with
  | .enc a => Sys2Proof.Machine.execEnc a s
  | .dec a => Sys2Proof.Machine.execDec a s
  | .mdist => Sys2Proof.Machine.execMdist s
  | .grow idx => Sys2Proof.Machine.execGrow idx s
  | .synd a => Sys2Proof.Machine.execSynd a s
  | .bxor w a b => Sys2Proof.Machine.execBxor w a b s
  | .popc w a => Sys2Proof.Machine.execPopc w a s
  | .getb w a idx => Sys2Proof.Machine.execGetb w a idx s
  | .setb w a idx v => Sys2Proof.Machine.execSetb w a idx v s
  | .flipb w a idx => Sys2Proof.Machine.execFlipb w a idx s
  | .hdist w a b => Sys2Proof.Machine.execHdist w a b s

end Sys2Proof.Machine
end

