-- ==== Sys2Proof/Machine/Clock.lean ====
section
/-! DEFINITION. One rising edge of `clk`: the host's duties (R129), reset (R123) and the transitions of R31. -/

namespace Sys2Proof.Machine

/-- Exec(PEND) (R62): the operation of the row that selects the word, IllegalCommand if there is none. -/
def execWord (w : Word) (s : State) : Host.Outcome State Fault Refusal :=
  match decodeWord w with
  | .ok i    => exec i s
  | .error _ => raise .illegalCommand s

/-- IDLE: a command transfers if one is presented (R31). -/
def idleEdge (p : PortSample) (s : State) : Host.Outcome State Fault Refusal :=
  if p.cmdValid then .next (s.accept p.cmdWord) else .next s

/-- EXEC: after LATENCY edges the response is there, until then the counter runs (R31, R130). -/
def execEdge (s : State) : Host.Outcome State Fault Refusal :=
  if s.cycles ≤ 1 then execWord s.pend s else .next s.countDown

/-- RESP: the response transfers if the host is ready for it, and is held otherwise (R31). -/
def respEdge (p : PortSample) (s : State) : Host.Outcome State Fault Refusal :=
  if p.rspReady then .next s.takeResponse else .next s

/-- The transition of R31 at an edge with rst = 0. -/
def transition (p : PortSample) (s : State) : Host.Outcome State Fault Refusal :=
  match s.phase with
  | .idle => idleEdge p s
  | .exec => execEdge s
  | .resp => respEdge p s

/-- What the edge does once the host's duties are met: reset loads the reset values and no transition is taken (R123);
before the first reset the state is unspecified (R126); otherwise the transition of R31. -/
def edgeEffect (s : State) : Host.Outcome State Fault Refusal :=
  if s.sample.rst then .next s.tick.loadReset
  else if s.resetDone then transition s.sample s.tick
  else .next s.tick.unspecified

/-- One rising edge of `clk`. The host's duties, on which every rule depends (R129), are looked at first: a command before
the first reset (d) and an offer not held (a) are refused, a look at outputs that hold no response (b) is a fault. -/
def clockEdge (s : State) : Host.Outcome State Fault Refusal :=
  if !s.resetDone && s.sample.cmdValid then .refused .commandBeforeReset
  else if !s.offerHeld s.sample then .refused .offerNotHeld
  else if s.sample.rspRead && !s.holdsResponse then .fault .rspReadWhileInvalid
  else edgeEffect s

/-- The low `nbits` bits of a number as a command word, the bits above them zero (R52). -/
def tableWord (nbits w : Nat) : Word := BitVec.ofNat 32 (w % 2 ^ nbits)

end Sys2Proof.Machine
end

