-- ==== Sys2Proof/Machine/Step.lean ====
section
/-! DEFINITION. One step of the machine, and the state in which the next step runs a given command word. -/

namespace Sys2Proof.Machine

/-- One step is one rising edge of `clk` (R24, R31; log 1). -/
def step (s : State) : Host.Outcome State Fault Refusal := clockEdge s

/-- `s` with the word in PEND at its last EXEC cycle, so that the very next step runs it (log 11). -/
def State.withFetchWord (s : State) (nbits w : Nat) : State := s.loadCommand (tableWord nbits w)

end Sys2Proof.Machine
end

