-- ==== Sys2Proof/Machine/Assembler.lean ====
section
/-! DEFINITION. The assembler (30_encoding.md R63, R64): numbers, lines of text, and the instruction a line stands for. -/

namespace Sys2Proof.Machine

/-- Why the assembler refuses a line (R63). -/
inductive AsmError where
  /-- The text is no line: a number it cannot read. -/
  | unreadable
  /-- An unknown mnemonic, a wrong suffix, a wrong operand count, or a value that does not fit its field. -/
  | illFormed
deriving DecidableEq, Repr

/-- The value of a digit in a base up to 16, hex letters in either case (log 14). -/
def digitValue (base : Nat) (c : Char) : Option Nat :=
  let n := c.toNat
  let v := if 48 ≤ n ∧ n ≤ 57 then n - 48
           else if 97 ≤ n ∧ n ≤ 102 then n - 87
           else if 65 ≤ n ∧ n ≤ 70 then n - 55
           else 16
  if v < base then some v else none

/-- The digits read on from a value, most significant first (R63). -/
def readDigits (base : Nat) : List Char → Nat → Option Nat
  | [],      acc => some acc
  | c :: cs, acc =>
    match digitValue base c with
    | some v => readDigits base cs (acc * base + v)
    | none   => none

/-- A numeral of at least one digit. -/
def readNumeral (base : Nat) (cs : List Char) : Option Nat :=
  match cs with
  | []      => none
  | _ :: _  => readDigits base cs 0

/-- An operand: decimal, `0x` hex or `0b` binary (R63). -/
def readNumber (cs : List Char) : Option Nat :=
  match cs with
  | '0' :: 'x' :: ds => readNumeral 16 ds
  | '0' :: 'b' :: ds => readNumeral 2 ds
  | ds               => readNumeral 10 ds

/-- The pieces of a text between the marks `sep`; one piece, maybe empty, more than there are marks. -/
def splitAtChar (sep : Char) : List Char → List (List Char)
  | []      => [[]]
  | c :: cs =>
    if c = sep then [] :: splitAtChar sep cs
    else match splitAtChar sep cs with
      | p :: ps => (c :: p) :: ps
      | []      => [[c]]

/-- A text without its leading blanks. -/
def dropBlanks : List Char → List Char
  | ' ' :: cs => dropBlanks cs
  | cs        => cs

/-- A text without the blanks at its two ends (log 14). -/
def trimBlanks (cs : List Char) : List Char := (dropBlanks (dropBlanks cs).reverse).reverse

/-- The operands of a list of texts, if each is a number. -/
def readOperands : List (List Char) → Option (List Nat)
  | []      => some []
  | p :: ps =>
    match readNumber (trimBlanks p), readOperands ps with
    | some n, some ns => some (n :: ns)
    | _, _            => none

/-- A mnemonic with its suffix, if it has one: the text after its first point (R63). -/
def splitSuffix (cs : List Char) : String × Option String :=
  match splitAtChar '.' cs with
  | []      => ("", none)
  | [m]     => (String.ofList m, none)
  | m :: ps => (String.ofList m, some (String.ofList (List.intercalate ['.'] ps)))

/-- A line of text: a mnemonic, and after a blank the operands separated by commas (R63; log 14). -/
def readLine (text : List Char) : Except AsmError AsmLine :=
  let cs := trimBlanks text
  let head := cs.takeWhile (fun c => c ≠ ' ')
  let tail := trimBlanks (cs.dropWhile (fun c => c ≠ ' '))
  let name := splitSuffix head
  match (if tail = [] then some [] else readOperands (splitAtChar ',' tail)) with
  | some ns => .ok ⟨name.1, name.2, ns⟩
  | none    => .error .unreadable

/-- `.4` is W = 0 and `.7` is W = 1 (R63). -/
def suffixWidth (suffix : Option String) : SymWidth := if suffix = some "4" then .w4 else .w7

/-- The instruction of a form of R63, if there is such a form; `CLRB.s a, i` expands to `SETB.s a, i, 0` (R64). -/
def formOf (l : AsmLine) : Option Instr :=
  let w := suffixWidth l.suffix
  match l.operands with
  | []        => if l.mnemonic = "MDIST" then some .mdist else none
  | [x]       =>
    let a := BitVec.ofNat 7 x
    if l.mnemonic = "ENC" then some (.enc a)
    else if l.mnemonic = "DEC" then some (.dec a)
    else if l.mnemonic = "SYND" then some (.synd a)
    else if l.mnemonic = "POPC" then some (.popc w a)
    else if l.mnemonic = "GROW" then some (.grow (BitVec.ofNat 3 x))
    else none
  | [x, y]    =>
    let a := BitVec.ofNat 7 x
    if l.mnemonic = "BXOR" then some (.bxor w a (BitVec.ofNat 7 y))
    else if l.mnemonic = "HDIST" then some (.hdist w a (BitVec.ofNat 7 y))
    else if l.mnemonic = "GETB" then some (.getb w a (BitVec.ofNat 3 y))
    else if l.mnemonic = "FLIPB" then some (.flipb w a (BitVec.ofNat 3 y))
    else if l.mnemonic = "CLRB" then some (.setb w a (BitVec.ofNat 3 y) false)
    else none
  | [x, y, z] =>
    if l.mnemonic = "SETB" then some (.setb w (BitVec.ofNat 7 x) (BitVec.ofNat 3 y) (z == 1)) else none
  | _         => none

/-- The assembler: it takes the well-formed lines and refuses the others (R63). It makes no width or index check, so a
line can assemble to a command that raises its error when it executes. -/
def assemble (l : AsmLine) : Except AsmError Instr :=
  if l.wellFormed then
    match formOf l with
    | some i => .ok i
    | none   => .error .illFormed
  else .error .illFormed

/-- The command word of a line of text. -/
def assembleText (text : List Char) : Except AsmError Word :=
  match readLine text with
  | .ok l =>
    match assemble l with
    | .ok i    => .ok (encode i)
    | .error e => .error e
  | .error e => .error e

end Sys2Proof.Machine
end

