-- ==== Sys2Proof/Machine/Answers.lean ====
section
/-! DEFINITION. Exec(w) of R62 as the spec states it: a total function of the command word and GROM alone (R33). The
machine runs exec on its state; this function is what claims compare it with. -/

namespace Sys2Proof.Machine

/-- `row.operation(cmd)` of R62. -/
def answerOf (g : Grom) : Instr → Answer
  | .enc a           => encAnswer g a
  | .dec a           => decAnswer a
  | .mdist           => mdistAnswer g
  | .grow idx        => growAnswer g idx
  | .synd a          => syndAnswer a
  | .bxor w a b      => bxorAnswer w a b
  | .popc w a        => popcAnswer w a
  | .getb w a idx    => getbAnswer w a idx
  | .setb w a idx v  => setbAnswer w a idx v
  | .flipb w a idx   => flipbAnswer w a idx
  | .hdist w a b     => hdistAnswer w a b

/-- Exec(w): (ILLEGAL, 0) if no row matches, else the row's operation (R62). -/
def wordResponse (g : Grom) (w : Word) : Response :=
  match decodeWord w with
  | .ok i    => responseOf (answerOf g i)
  | .error _ => responseOf (.error .illegalCommand)

end Sys2Proof.Machine
end

