-- ==== Sys2Proof/Machine/Streams.lean ====
section
/-! DEFINITION. The host's conventions and sequences (20_memory.md R41, R42; 30_encoding.md R65): byte streams as symbols,
streams as command lists, and the port samples with which a host runs one command. -/

namespace Sys2Proof.Machine

/-- A byte's symbols, the high nibble first: b[7:4], then b[3:0] (R41). -/
def nibblesOf (b : Byte) : List Msg := [b.extractLsb' 4 4, b.extractLsb' 0 4]

/-- A byte stream's symbols in order (R41). -/
def symbolsOf (bs : List Byte) : List Msg := bs.flatMap nibblesOf

/-- encodeStream(s1..sm): ENC s1 … ENC sm (R65, R89). -/
def encodeStream (ss : List Msg) : List Word := ss.map (fun s => encode (.enc (s.setWidth 7)))

/-- decodeStream(c1..cm): DEC c1 … DEC cm (R65, R99). -/
def decodeStream (cs : List Sym) : List Word := cs.map (fun c => encode (.dec c))

/-- The residual bit errors of one symbol: the Hamming distance at width 4 of the original and the decoded message (R42). -/
def residualErrors (original decoded : Msg) : Nat := hamming (original.setWidth 7) (decoded.setWidth 7) .w4

/-- The tally of the residual bit errors of a stream, each original message beside its decoded one: the sum of the
symbols' residual errors, 0 for the empty stream (R42; 95_test_vectors.md sections 1.7 and 3.1). -/
def residualTally : List (Msg × Msg) → Nat
  | []           => 0
  | (m, d) :: ps => residualErrors m d + residualTally ps

/-- The commands with which the host computes the tally: HDIST.4 m, d for each message and its decoded one (R42). -/
def tallyStream (ps : List (Msg × Msg)) : List Word :=
  ps.map (fun p => encode (.hdist .w4 (p.1.setWidth 7) (p.2.setWidth 7)))

/-- A port sample that drives nothing. -/
def quietSample : PortSample := ⟨false, false, 0#32, false, false⟩

/-- A port sample that offers a command (R132). -/
def offerSample (w : Word) : PortSample := ⟨false, true, w, false, false⟩

/-- A port sample that takes a response (R132). -/
def takeSample : PortSample := ⟨false, false, 0#32, true, false⟩

/-- A port sample that holds reset (R132). -/
def resetSample : PortSample := ⟨true, false, 0#32, false, false⟩

/-- The samples of one command run to its end: the offer, the LATENCY edges, and the edge that takes the response (R131). -/
def commandSamples (w : Word) : List PortSample :=
  offerSample w :: List.replicate (Config.latency (opField w)) quietSample ++ [takeSample]

/-- The samples of a run of commands, one after another (R131). -/
def runSamples (ws : List Word) : List PortSample := ws.flatMap commandSamples

end Sys2Proof.Machine
end

