-- ==== Sys2Proof/Safety.lean ====
section
/-! DEFINITION. The terms claims are made in: what a safe run is (R116), the host's duties (R129), the causes of the
errors (R108, R109), and the invariants of the machine. -/

namespace Sys2Proof.Machine

/-- R116: claims about a host take "no fault recorded" as a premise. -/
abbrev State.NoFaultRecorded (s : State) : Prop := s.faultRecord = []

/-- The host meets its duties at the coming edge (R129 (a), (b), (d)). -/
abbrev State.HostObeys (s : State) : Prop :=
  (s.resetDone = false → s.sample.cmdValid = false) ∧
  (∀ w, s.offered = some w → s.sample.cmdValid = true ∧ s.sample.cmdWord = w) ∧
  (s.sample.rspRead = true → s.holdsResponse = true)

/-- The coming edge takes a transition of R31: the duties are met, reset has happened and rst = 0. -/
abbrev State.Running (s : State) : Prop := s.HostObeys ∧ s.resetDone = true ∧ s.sample.rst = false

/-- The operand is a symbol of the width: no bit at or above it is set (R56, R66). -/
abbrev IsSymbol (w : SymWidth) (a : Sym) : Prop := a.toNat < 2 ^ widthNat w

/-- An operand that the instruction reads as a 4-bit symbol has a bit set above bit 3: the cause of WidthMismatch (R108). -/
def widthBad : Instr → Prop
  | .enc a         => ¬ IsSymbol .w4 a
  | .dec _         => False
  | .mdist         => False
  | .grow _        => False
  | .synd _        => False
  | .bxor w a b    => ¬ IsSymbol w a ∨ ¬ IsSymbol w b
  | .popc w a      => ¬ IsSymbol w a
  | .getb w a _    => ¬ IsSymbol w a
  | .setb w a _ _  => ¬ IsSymbol w a
  | .flipb w a _   => ¬ IsSymbol w a
  | .hdist w a b   => ¬ IsSymbol w a ∨ ¬ IsSymbol w b

/-- The index is at or beyond the symbol width, or the row index at or beyond 4: the cause of IndexOutOfRange (R109). -/
def indexBad : Instr → Prop
  | .enc _         => False
  | .dec _         => False
  | .mdist         => False
  | .grow idx      => 4 ≤ idx.toNat
  | .synd _        => False
  | .bxor _ _ _    => False
  | .popc _ _      => False
  | .getb w _ i    => widthNat w ≤ i.toNat
  | .setb w _ i _  => widthNat w ≤ i.toNat
  | .flipb w _ i   => widthNat w ≤ i.toNat
  | .hdist _ _ _   => False

/-- The number of ones of a 7-bit symbol, bit by bit. -/
def onesCount (a : Sym) : Nat :=
  (a.getLsbD 0).toNat + (a.getLsbD 1).toNat + (a.getLsbD 2).toNat + (a.getLsbD 3).toNat + (a.getLsbD 4).toNat
    + (a.getLsbD 5).toNat + (a.getLsbD 6).toNat

/-- The OP code of an operation (R59). -/
def opCode : Op → BitVec 4
  | .enc   => 0x1#4
  | .dec   => 0x2#4
  | .mdist => 0x3#4
  | .grow  => 0x4#4
  | .synd  => 0x5#4
  | .bxor  => 0x6#4
  | .popc  => 0x7#4
  | .getb  => 0x8#4
  | .setb  => 0x9#4
  | .flipb => 0xA#4
  | .hdist => 0xB#4

/-- Every field that the operation's row does not name as an operand is zero, RSVD apart: the "fields" column of R59. -/
def OperandFieldsOnly (op : Op) (w : Word) : Prop :=
  match op with
  | .enc   => bField w = 0#7 ∧ idxField w = 0#3 ∧ vField w = 0#1 ∧ wField w = 0#1
  | .dec   => bField w = 0#7 ∧ idxField w = 0#3 ∧ vField w = 0#1 ∧ wField w = 0#1
  | .mdist => aField w = 0#7 ∧ bField w = 0#7 ∧ idxField w = 0#3 ∧ vField w = 0#1 ∧ wField w = 0#1
  | .grow  => aField w = 0#7 ∧ bField w = 0#7 ∧ vField w = 0#1 ∧ wField w = 0#1
  | .synd  => bField w = 0#7 ∧ idxField w = 0#3 ∧ vField w = 0#1 ∧ wField w = 0#1
  | .bxor  => idxField w = 0#3 ∧ vField w = 0#1
  | .popc  => bField w = 0#7 ∧ idxField w = 0#3 ∧ vField w = 0#1
  | .getb  => bField w = 0#7 ∧ vField w = 0#1
  | .setb  => bField w = 0#7
  | .flipb => bField w = 0#7 ∧ vField w = 0#1
  | .hdist => idxField w = 0#3 ∧ vField w = 0#1

/-- The offers in a list of port samples are held as R129 (a) asks while nothing transfers, from the offer that stands. -/
def keepsOffers : Option Word → List PortSample → Bool
  | _, []      => true
  | o, p :: ps =>
    (match o with
     | none   => true
     | some w => p.cmdValid && p.cmdWord == w)
    && keepsOffers (if p.cmdValid then some p.cmdWord else none) ps

/-- GROM holds the values of R27. -/
abbrev State.GromFixed (s : State) : Prop := s.grom = Grom.rom

/-- While PHASE = EXEC, between 1 and LATENCY edges are to go (R31, R130). -/
abbrev State.CountsDown (s : State) : Prop :=
  s.resetDone = true → s.phase = .exec → 1 ≤ s.cycles ∧ s.cycles ≤ Config.latency (opField s.pend)

/-- After the first reset, RSP_DATA is 0 whenever RSP_STATUS is not OK (R105). -/
abbrev State.ErrorDataZero (s : State) : Prop := s.resetDone = true → s.rspStatus ≠ statusOk → s.rspData = 0#7

/-- The commands of the run that are answered: all that were accepted but the one in flight. -/
def State.answered (s : State) : List Word := if s.phase = .idle then s.accepted else s.accepted.dropLast

/-- The run so far is `responses = map Exec commands` (R34), with the command in flight in PEND and, in RESP, its response
in the response registers. -/
structure State.RunMatches (s : State) : Prop where
  responses_eq : s.responses = s.answered.map (wordResponse s.grom)
  in_flight    : s.phase ≠ .idle → s.accepted.getLast? = some s.pend
  held         : s.phase = .resp → wordResponse s.grom s.pend = ⟨s.rspStatus, s.rspData⟩

/-- The run invariant, from the first reset on. -/
abbrev State.RunInv (s : State) : Prop := s.resetDone = true → s.RunMatches

/-- Every entry of the fault record is the status of an error (R116). -/
abbrev State.RecordsErrors (s : State) : Prop := ∀ c ∈ s.faultRecord, c ≠ statusOk

/-- The invariant of the machine. -/
structure State.Inv (s : State) : Prop where
  grom_fixed     : s.GromFixed
  counts_down    : s.CountsDown
  error_data     : s.ErrorDataZero
  run_matches    : s.RunInv
  records_errors : s.RecordsErrors

/-- The command answers (status, data): RSP_STATUS, RSP_DATA and PHASE become the response's (R31), and every other piece
of state is as before. -/
abbrev AnswersWith (i : Instr) (s : State) (status : StatusCode) (data : Sym) : Prop :=
  exec i s = .next { s with rspStatus := status, rspData := data, phase := .resp }

end Sys2Proof.Machine
end

