-- ==== Sys2Proof/Certificates/Slice0/Obligations.lean ====
section
/-! DEFINITION. The statements about HAM74 for the provers; each docstring names the rules of spec/ it rests on. -/

open Sys2Proof Sys2Proof.Machine

/-! ### Encoding (30_encoding.md) -/

/-- R54, R59: decoding the word of an instruction gives the instruction, every operand at every value. -/
def Obligations.DecodeOfEncode : Prop := ∀ i : Instr, decodeWord (encode i) = .ok i

/-- R52, R61: a word that decodes is the word of the instruction it decodes to, so no two words mean the same. -/
def Obligations.EncodeOfDecode : Prop := ∀ (w : Word) (i : Instr), decodeWord w = .ok i → encode i = w

/-- R60: the rows' match values differ in OP and every mask covers OP; at most one row selects a word, and a word decodes
to the operation of the row that selects it and to nothing else. -/
def Obligations.UniqueRowSelects : Prop :=
  (∀ r₁ ∈ opTable, ∀ r₂ ∈ opTable, opField r₁.value = opField r₂.value → r₁ = r₂) ∧
  (∀ r ∈ opTable, opField r.mask = 0xF#4) ∧
  (∀ w : Word, ∀ r₁ ∈ opTable, ∀ r₂ ∈ opTable, w &&& r₁.mask = r₁.value → w &&& r₂.mask = r₂.value → r₁ = r₂) ∧
  (∀ (w : Word) (i : Instr), decodeWord w = .ok i ↔ ∃ r ∈ opTable, w &&& r.mask = r.value ∧ i = buildInstr r.op w)

/-- R61: the illegal words are those with OP = 0x0 or OP in 0xC..0xF, RSVD ≠ 0, or a must-be-zero field of their OP's row
that is not zero, which are the words that match no row; each raises IllegalCommand, and every other word selects exactly
one operation. -/
def Obligations.IllegalWords : Prop :=
  ∀ w : Word,
    ((∃ e, decodeWord w = .error e) ↔
      opField w = 0x0#4 ∨ 0xC#4 ≤ opField w ∨ rsvdField w ≠ 0#9 ∨
        ∃ op, opField w = opCode op ∧ ¬ OperandFieldsOnly op w) ∧
    ((∃ e, decodeWord w = .error e) ↔ ∀ r ∈ opTable, w &&& r.mask ≠ r.value) ∧
    ((∃ e, decodeWord w = .error e) →
      ∀ s : State, execWord w s = .next { s with rspStatus := 1#2, rspData := 0#7, phase := .resp }) ∧
    ((¬ ∃ e, decodeWord w = .error e) →
      (∃ i, decodeWord w = .ok i) ∧
      ∃ r ∈ opTable, w &&& r.mask = r.value ∧ ∀ r' ∈ opTable, w &&& r'.mask = r'.value → r' = r)

/-- R59, R73 to R101: words the rules print as examples decode to the commands they stand for. -/
def Obligations.SampleWordsDecode : Prop :=
  decodeWord 0x000000A1#32 = .ok (.enc 0x0A#7) ∧
  decodeWord 0x00000252#32 = .ok (.dec 0x25#7) ∧
  decodeWord 0x00000003#32 = .ok .mdist ∧
  decodeWord 0x000C0004#32 = .ok (.grow 3#3) ∧
  decodeWord 0x00000255#32 = .ok (.synd 0x25#7) ∧
  decodeWord 0x004292D6#32 = .ok (.bxor .w7 0x2D#7 0x52#7) ∧
  decodeWord 0x004007F7#32 = .ok (.popc .w7 0x7F#7) ∧
  decodeWord 0x004C02D8#32 = .ok (.getb .w7 0x2D#7 3#3) ∧
  decodeWord 0x006402D9#32 = .ok (.setb .w7 0x2D#7 1#3 true) ∧
  decodeWord 0x004C02DA#32 = .ok (.flipb .w7 0x2D#7 3#3) ∧
  decodeWord 0x004292DB#32 = .ok (.hdist .w7 0x2D#7 0x52#7) ∧
  decodeWord 0x00000000#32 = .error .unassignedOp

/-- R62: Exec answers (ILLEGAL, 0) for a word no row matches, runs the row's operation for a word one matches, and gives a
(status, data) pair for every 32-bit word. -/
def Obligations.ExecOfEveryWord : Prop :=
  ∀ (w : Word) (s : State),
    ((∀ r ∈ opTable, w &&& r.mask ≠ r.value) →
      execWord w s = .next { s with rspStatus := 1#2, rspData := 0#7, phase := .resp }) ∧
    (∀ r ∈ opTable, w &&& r.mask = r.value → execWord w s = exec (buildInstr r.op w) s) ∧
    (∃ (status : StatusCode) (data : Sym),
      execWord w s = .next { s with rspStatus := status, rspData := data, phase := .resp })

/-- R63: each form of the assembler stands for the command of its row, for every operand that fits its field; no width or
index check is made. -/
def Obligations.AssemblerForms : Prop :=
  ∀ a b i v : Nat, a ≤ 127 → b ≤ 127 → i ≤ 7 → v ≤ 1 →
    assemble ⟨"ENC", none, [a]⟩ = .ok (.enc (BitVec.ofNat 7 a)) ∧
    assemble ⟨"DEC", none, [a]⟩ = .ok (.dec (BitVec.ofNat 7 a)) ∧
    assemble ⟨"MDIST", none, []⟩ = .ok .mdist ∧
    assemble ⟨"GROW", none, [i]⟩ = .ok (.grow (BitVec.ofNat 3 i)) ∧
    assemble ⟨"SYND", none, [a]⟩ = .ok (.synd (BitVec.ofNat 7 a)) ∧
    (∀ p ∈ [("4", SymWidth.w4), ("7", SymWidth.w7)],
      assemble ⟨"BXOR", some p.1, [a, b]⟩ = .ok (.bxor p.2 (BitVec.ofNat 7 a) (BitVec.ofNat 7 b)) ∧
      assemble ⟨"POPC", some p.1, [a]⟩ = .ok (.popc p.2 (BitVec.ofNat 7 a)) ∧
      assemble ⟨"GETB", some p.1, [a, i]⟩ = .ok (.getb p.2 (BitVec.ofNat 7 a) (BitVec.ofNat 3 i)) ∧
      assemble ⟨"SETB", some p.1, [a, i, v]⟩ = .ok (.setb p.2 (BitVec.ofNat 7 a) (BitVec.ofNat 3 i) (v == 1)) ∧
      assemble ⟨"FLIPB", some p.1, [a, i]⟩ = .ok (.flipb p.2 (BitVec.ofNat 7 a) (BitVec.ofNat 3 i)) ∧
      assemble ⟨"HDIST", some p.1, [a, b]⟩ = .ok (.hdist p.2 (BitVec.ofNat 7 a) (BitVec.ofNat 7 b)))

/-- R63, R64: a line assembles to an instruction exactly if the line is one of the forms of R63, or the `CLRB` of R64, its
suffix none, `.4` or `.7` as the form has it, its operands as many as the form has, `a` and `b` at most 127, `i` at most 7
and `v` at most 1, and the instruction is that form's; every other line is refused. The forms are written out here, apart
from the check the assembler makes. -/
def Obligations.AssemblerTakesWellFormedLines : Prop :=
  ∀ l : AsmLine,
    (∀ c : Instr, assemble l = .ok c ↔
      (∃ a, a ≤ 127 ∧ l = ⟨"ENC", none, [a]⟩ ∧ c = .enc (BitVec.ofNat 7 a)) ∨
      (∃ a, a ≤ 127 ∧ l = ⟨"DEC", none, [a]⟩ ∧ c = .dec (BitVec.ofNat 7 a)) ∨
      (l = ⟨"MDIST", none, []⟩ ∧ c = .mdist) ∨
      (∃ i, i ≤ 7 ∧ l = ⟨"GROW", none, [i]⟩ ∧ c = .grow (BitVec.ofNat 3 i)) ∨
      (∃ a, a ≤ 127 ∧ l = ⟨"SYND", none, [a]⟩ ∧ c = .synd (BitVec.ofNat 7 a)) ∨
      ∃ (s : String) (w : SymWidth) (a : Nat), ((s = "4" ∧ w = .w4) ∨ (s = "7" ∧ w = .w7)) ∧ a ≤ 127 ∧
        ((∃ b, b ≤ 127 ∧ l = ⟨"BXOR", some s, [a, b]⟩ ∧ c = .bxor w (BitVec.ofNat 7 a) (BitVec.ofNat 7 b)) ∨
         (l = ⟨"POPC", some s, [a]⟩ ∧ c = .popc w (BitVec.ofNat 7 a)) ∨
         (∃ i, i ≤ 7 ∧ l = ⟨"GETB", some s, [a, i]⟩ ∧ c = .getb w (BitVec.ofNat 7 a) (BitVec.ofNat 3 i)) ∨
         (∃ i v, i ≤ 7 ∧ v ≤ 1 ∧ l = ⟨"SETB", some s, [a, i, v]⟩ ∧
           c = .setb w (BitVec.ofNat 7 a) (BitVec.ofNat 3 i) (v == 1)) ∨
         (∃ i, i ≤ 7 ∧ l = ⟨"FLIPB", some s, [a, i]⟩ ∧ c = .flipb w (BitVec.ofNat 7 a) (BitVec.ofNat 3 i)) ∨
         (∃ b, b ≤ 127 ∧ l = ⟨"HDIST", some s, [a, b]⟩ ∧ c = .hdist w (BitVec.ofNat 7 a) (BitVec.ofNat 7 b)) ∨
         (∃ i, i ≤ 7 ∧ l = ⟨"CLRB", some s, [a, i]⟩ ∧
           c = .setb w (BitVec.ofNat 7 a) (BitVec.ofNat 3 i) false))) ∧
    ((∀ c : Instr, assemble l ≠ .ok c) → assemble l = .error .illFormed)

/-- R64: `CLRB.s a, i` expands to `SETB.s a, i, 0`, whatever the suffix and the operands. -/
def Obligations.ClrbExpandsToSetb : Prop :=
  ∀ (suffix : Option String) (a i : Nat),
    assemble ⟨"CLRB", suffix, [a, i]⟩ = assemble ⟨"SETB", suffix, [a, i, 0]⟩

/-! ### The clock edge (10_state.md, 70_reset_and_hazards.md) -/

/-- R31, R62: at the last EXEC cycle of a command word that decodes, the step is the execution of its instruction, on the
state in which the edge's port sample is used up, the edge counted and the host's offer noted. That the last EXEC cycle is
the counter at most 1, the 0 that no run reaches included, is the model's choice (log 3). -/
def Obligations.StepRunsDecoded : Prop :=
  ∀ (s : State) (i : Instr), s.Running → s.phase = .exec → s.cycles ≤ 1 → decodeWord s.pend = .ok i →
    i.wellFormed = true ∧
    step s = exec i { s with
      inputs  := s.inputs.tail
      edges   := s.edges + 1
      offered := if s.sample.cmdValid then some s.sample.cmdWord else none }

/-- R61, R107: at the last EXEC cycle of a word that does not decode, the step answers ILLEGAL with data 0. That the last
EXEC cycle is the counter at most 1, the 0 that no run reaches included, is the model's choice (log 3). -/
def Obligations.StepAnswersIllegal : Prop :=
  ∀ (s : State) (e : DecodeError), s.Running → s.phase = .exec → s.cycles ≤ 1 → decodeWord s.pend = .error e →
    ∃ t, step s = .next t ∧ t.phase = .resp ∧ t.rspStatus = 1#2 ∧ t.rspData = 0#7 ∧ t.grom = s.grom

/-- R31: what an edge with rst = 0 does in each PHASE, to PHASE, PEND, the counter and the response registers; and a
response is on the ports, held, until it transfers. The counter's form is log 3, that what R31 does not write keeps its
value is log 17. -/
def Obligations.PortTransitions : Prop :=
  ∀ s : State, s.Running →
    (s.phase = .idle → s.sample.cmdValid = true →
      ∃ t, step s = .next t ∧ t.phase = .exec ∧ t.pend = s.sample.cmdWord ∧
        t.cycles = Config.latency (opField s.sample.cmdWord) ∧ t.rspStatus = s.rspStatus ∧ t.rspData = s.rspData) ∧
    (s.phase = .idle → s.sample.cmdValid = false →
      ∃ t, step s = .next t ∧ t.phase = .idle ∧ t.pend = s.pend ∧ t.cycles = s.cycles ∧
        t.rspStatus = s.rspStatus ∧ t.rspData = s.rspData) ∧
    (s.phase = .exec → 1 < s.cycles →
      ∃ t, step s = .next t ∧ t.phase = .exec ∧ t.pend = s.pend ∧ t.cycles + 1 = s.cycles ∧
        t.rspStatus = s.rspStatus ∧ t.rspData = s.rspData) ∧
    (s.phase = .exec → s.cycles ≤ 1 →
      ∃ t, step s = .next t ∧ t.phase = .resp ∧ t.pend = s.pend ∧ t.cycles = s.cycles ∧
        wordResponse s.grom s.pend = ⟨t.rspStatus, t.rspData⟩) ∧
    (s.phase = .resp → s.sample.rspReady = true →
      ∃ t, step s = .next t ∧ t.phase = .idle ∧ t.pend = s.pend ∧ t.cycles = s.cycles ∧
        t.rspStatus = s.rspStatus ∧ t.rspData = s.rspData) ∧
    (s.phase = .resp → s.sample.rspReady = false →
      ∃ t, step s = .next t ∧ t.phase = .resp ∧ t.pend = s.pend ∧ t.cycles = s.cycles ∧
        t.rspStatus = s.rspStatus ∧ t.rspData = s.rspData) ∧
    (s.phase = .resp → s.outputs.rspStatus = s.rspStatus ∧ s.outputs.rspData = s.rspData)

/-- R130, R31: LATENCY is positive; from the edge at which a command transfers, PHASE is EXEC for LATENCY edges and RESP
at the next, with the command's response, as long as no reset comes and the host keeps its duties. -/
def Obligations.AnsweredAfterLatency : Prop :=
  (∀ op, 0 < Config.latency op) ∧
  ∀ s : State, s.Running → s.phase = .idle → s.sample.cmdValid = true →
    (∀ p ∈ s.inputs.tail.take (Config.latency (opField s.sample.cmdWord)), p.rst = false ∧ p.rspRead = false) →
    keepsOffers none (s.inputs.tail.take (Config.latency (opField s.sample.cmdWord))) = true →
    (∀ k, 1 ≤ k → k ≤ Config.latency (opField s.sample.cmdWord) →
      ∃ t : State, Sys2Proof.core.run k s = .next t ∧ t.phase = .exec ∧ t.pend = s.sample.cmdWord) ∧
    (∃ t : State, Sys2Proof.core.run (Config.latency (opField s.sample.cmdWord) + 1) s = .next t ∧ t.phase = .resp ∧
      wordResponse s.grom s.sample.cmdWord = ⟨t.rspStatus, t.rspData⟩)

/-- R25: a command transfers exactly where cmd_valid and cmd_ready are both 1, a response exactly where rsp_valid and
rsp_ready are both 1, and none at an edge with rst = 1; the outputs do not depend on rsp_ready. Transfers are read off the
model's own record of the run, which a reset begins anew (log 9). -/
def Obligations.TransfersNeedValidAndReady : Prop :=
  (∀ s t : State, s.Running → step s = .next t →
    t.accepted = (if s.sample.cmdValid && s.outputs.cmdReady then s.accepted ++ [s.sample.cmdWord] else s.accepted) ∧
    t.responses = (if s.outputs.rspValid && s.sample.rspReady
      then s.responses ++ [⟨s.outputs.rspStatus, s.outputs.rspData⟩] else s.responses)) ∧
  (∀ s t : State, s.sample.rst = true → step s = .next t → t.accepted = [] ∧ t.responses = []) ∧
  (∀ (s : State) (p : PortSample) (ps : List PortSample) (b : Bool), s.inputs = p :: ps →
    ({ s with inputs := { p with rspReady := b } :: ps } : State).outputs = s.outputs)

/-- R30: after the first reset and with rst = 0, PHASE drives cmd_ready and rsp_valid as the table says. -/
def Obligations.PhaseDrivesOutputs : Prop :=
  ∀ s : State, s.resetDone = true → s.sample.rst = false →
    (s.phase = .idle → s.outputs.cmdReady = true ∧ s.outputs.rspValid = false) ∧
    (s.phase = .exec → s.outputs.cmdReady = false ∧ s.outputs.rspValid = false) ∧
    (s.phase = .resp → s.outputs.cmdReady = false ∧ s.outputs.rspValid = true)

/-- R123: an edge with rst = 1 loads the reset values in every state, whatever PHASE holds and before the first reset too,
in place of a transition, and GROM is as before. PEND is left open, as R38 leaves it. -/
def Obligations.ResetEdgeLoadsResetValues : Prop :=
  ∀ s : State, s.HostObeys → s.sample.rst = true →
    ∃ t, step s = .next t ∧ t.phase = .idle ∧ t.rspStatus = 0#2 ∧ t.rspData = 0#7 ∧ t.grom = s.grom

/-- R124: while rst = 1, cmd_ready = 0 and rsp_valid = 0 whatever PHASE holds, and nothing transfers; after it, with
rst = 0, the outputs follow PHASE = IDLE, and a command presented transfers at once. Transfers are read off the model's own
record of the run, which a reset begins anew (log 9). -/
def Obligations.OutputsDuringReset : Prop :=
  (∀ s : State, s.sample.rst = true → s.outputs.cmdReady = false ∧ s.outputs.rspValid = false) ∧
  (∀ s t : State, s.sample.rst = true → step s = .next t → t.accepted = [] ∧ t.responses = []) ∧
  (∀ s t : State, s.sample.rst = true → step s = .next t → t.sample.rst = false →
    t.outputs.cmdReady = true ∧ t.outputs.rspValid = false) ∧
  (∀ s t : State, s.sample.rst = true → step s = .next t → t.Running → t.sample.cmdValid = true →
    ∃ u, step t = .next u ∧ u.phase = .exec ∧ u.pend = t.sample.cmdWord ∧ u.accepted = [t.sample.cmdWord])

/-- R125: a command in flight at a reset is never answered: after the reset edge no response transfers until another
command has been accepted, however many edges pass (read off the model's record of the run, log 9). -/
def Obligations.ResetAbortsCommand : Prop :=
  ∀ s t : State, s.phase ≠ .idle → s.sample.rst = true → step s = .next t →
    t.phase = .idle ∧
    ∀ (k : Nat) (u : State), Sys2Proof.core.run k t = .next u → u.accepted = [] → u.responses = [] ∧ u.phase = .idle

/-- R32, U5: a host that looks at the response outputs while they hold no response makes the step a fault; that this takes
in an edge with rst = 1 (R124) and the time before the first reset is log 6 and log 8. -/
def Obligations.ReadWithoutResponseFaults : Prop :=
  ∀ s : State, s.sample.rspRead = true → (s.phase ≠ .resp ∨ s.sample.rst = true ∨ s.resetDone = false) →
    (s.resetDone = false → s.sample.cmdValid = false) →
    (∀ w, s.offered = some w → s.sample.cmdValid = true ∧ s.sample.cmdWord = w) →
    step s = .fault .rspReadWhileInvalid

/-- R129 (a), U9: a host that drops cmd_valid or changes cmd_word before the transfer is refused. That this holds at every
edge, one with rst = 1 included, is log 7; that the refusal comes before the fault U5 asks for, where the host also looks at
outputs that hold no response, is the model's choice (log 16). -/
def Obligations.BrokenOfferRefused : Prop :=
  ∀ (s : State) (w : Word), s.resetDone = true → s.offered = some w →
    (s.sample.cmdValid = false ∨ s.sample.cmdWord ≠ w) → step s = .refused .offerNotHeld

/-- R126, R129 (d), U6: a command presented before the first reset is refused; that this takes in the first reset edge itself
is log 8. That this refusal is the one named where the host also breaks its offer or looks at outputs that hold no response
is the model's choice (log 16). -/
def Obligations.CommandBeforeResetRefused : Prop :=
  ∀ s : State, s.resetDone = false → s.sample.cmdValid = true → step s = .refused .commandBeforeReset

/-- R33, R129: the machine never stops by itself: a step answers a next state exactly when the host meets its duties (a), (b)
and (d) at the edge, whatever HAM74 holds. What the duties take in beyond R129's words is the model's reading: a look at the
outputs during reset or before the first reset breaks (b) (log 6), an offer dropped at an edge with rst = 1 breaks (a)
(log 7), a command at the first reset edge breaks (d) (log 8). -/
def Obligations.StepStopsOnlyForHost : Prop :=
  ∀ s : State, (∃ t, step s = .next t) ↔ s.HostObeys

/-- R34, R33: every step keeps `responses = map Exec commands`, from every state in which it holds: the responses
transferred since the last reset are those of the commands accepted since, in order, less the one in flight (the record
of the run is the model's own, log 9). -/
def Obligations.EveryStepKeepsRunIsMapExec : Prop :=
  ∀ s t : State, s.RunInv → step s = .next t → t.RunInv

/-- R26, R31, R34, R105, R116: every step keeps the invariant of the machine: GROM holds its values, the counter stays
within LATENCY (the form of the counter is log 3), an error's data is 0, the run is the map of Exec, and the fault record
holds errors only (log 9). -/
def Obligations.EveryStepKeepsInv : Prop :=
  ∀ s t : State, s.Inv → step s = .next t → t.Inv

/-- R38: the invariant holds after reset. -/
def Obligations.ResetMeetsInv : Prop := State.reset.Inv

/-- R38, R27: what reset leaves. -/
def Obligations.ResetValues : Prop :=
  State.reset.phase = .idle ∧ State.reset.rspStatus = 0#2 ∧ State.reset.rspData = 0#7 ∧
  State.reset.grom.row 0 = 0x07#7 ∧ State.reset.grom.row 1 = 0x19#7 ∧ State.reset.grom.row 2 = 0x2A#7 ∧
  State.reset.grom.row 3 = 0x4B#7 ∧
  State.reset.outputs.cmdReady = true ∧ State.reset.outputs.rspValid = false

/-- R131, R34: a host that presents the commands one after another, from any idle state after a reset, gets the list
`map Exec commands` and leaves HAM74 idle with GROM unchanged; no command gives no response (the host's samples are
log 1, the record of the run log 9). -/
def Obligations.RunOfCommandsIsMapExec : Prop :=
  ∀ (s : State) (ws : List Word) (rest : List PortSample),
    s.resetDone = true → s.phase = .idle → s.offered = none → s.inputs = runSamples ws ++ rest →
    ∃ t : State, Sys2Proof.core.run (runSamples ws).length s = .next t ∧
      t.responses = s.responses ++ ws.map (wordResponse s.grom) ∧ t.accepted = s.accepted ++ ws ∧
      t.phase = .idle ∧ t.grom = s.grom ∧ t.offered = none ∧ t.inputs = rest

/-- R116: no step clears the fault record, and it grows by the status of each non-OK response that transfers and by
nothing else (the form of the record is log 9). -/
def Obligations.FaultRecordOnlyGrows : Prop :=
  ∀ s t : State, step s = .next t →
    t.faultRecord = s.faultRecord ++
      (if s.resetDone && !s.sample.rst && s.phase == .resp && s.sample.rspReady && s.rspStatus != 0#2
        then [s.rspStatus] else [])

/-! ### What every command does (30_encoding.md, 60_exceptions.md) -/

/-- R33, R45: every instruction, in every state, answers a next state, and writes nothing but the response: GROM, PEND,
the counter and everything the model records are as before. -/
def Obligations.ExecWritesResponseOnly : Prop :=
  ∀ (i : Instr) (s : State), ∃ (status : StatusCode) (data : Sym), AnswersWith i s status data

/-- R33: Exec(w) is a total, deterministic function of the word and GROM alone: two states with one GROM, whatever came
before, give one word the same response, and nothing but the response is written. -/
def Obligations.ResponseDependsOnWordAndGrom : Prop :=
  ∀ (w : Word) (s₁ s₂ : State), s₁.grom = s₂.grom →
    ∃ (status : StatusCode) (data : Sym),
      execWord w s₁ = .next { s₁ with rspStatus := status, rspData := data, phase := .resp } ∧
      execWord w s₂ = .next { s₂ with rspStatus := status, rspData := data, phase := .resp }

/-- R26, R82, R123: no instruction and no step, reset included, writes GROM. -/
def Obligations.GromNeverWritten : Prop :=
  (∀ (i : Instr) (s t : State), exec i s = .next t → t.grom = s.grom) ∧
  (∀ s t : State, step s = .next t → t.grom = s.grom)

/-- R105: a response that is not OK carries data 0, for every instruction and every word. -/
def Obligations.ErrorsCarryNoData : Prop :=
  (∀ (i : Instr) (s t : State), exec i s = .next t → t.rspStatus ≠ 0#2 → t.rspData = 0#7) ∧
  (∀ (w : Word) (s t : State), execWord w s = .next t → t.rspStatus ≠ 0#2 → t.rspData = 0#7)

/-- R108, R109, R110: a decoded instruction reports WIDTH exactly for its width causes, else INDEX exactly for its index
causes, else OK; a word no row matches reports ILLEGAL whatever its operands. -/
def Obligations.ErrorCausesAndPriority : Prop :=
  (∀ (i : Instr) (s : State),
    (widthBad i → AnswersWith i s 2#2 0#7) ∧
    (¬ widthBad i → indexBad i → AnswersWith i s 3#2 0#7) ∧
    (¬ widthBad i → ¬ indexBad i → ∃ data, AnswersWith i s 0#2 data)) ∧
  (∀ (w : Word) (e : DecodeError) (s : State), decodeWord w = .error e →
    execWord w s = .next { s with rspStatus := 1#2, rspData := 0#7, phase := .resp })

/-! ### BitVector (40_bitvector.md) -/

/-- R73: BXOR. -/
def Obligations.BxorAnswers : Prop :=
  ∀ (s : State) (w : SymWidth) (a b : Sym),
    (IsSymbol w a ∧ IsSymbol w b → AnswersWith (.bxor w a b) s 0#2 (a ^^^ b)) ∧
    (¬ (IsSymbol w a ∧ IsSymbol w b) → AnswersWith (.bxor w a b) s 2#2 0#7)

/-- R74, R70: POPC counts the ones. -/
def Obligations.PopcAnswers : Prop :=
  ∀ (s : State) (w : SymWidth) (a : Sym),
    (IsSymbol w a → AnswersWith (.popc w a) s 0#2 (BitVec.ofNat 7 (onesCount a))) ∧
    (¬ IsSymbol w a → AnswersWith (.popc w a) s 2#2 0#7)

/-- R75, R67: GETB gives the bit in data[0], the rest of the data 0. -/
def Obligations.GetbAnswers : Prop :=
  ∀ (s : State) (w : SymWidth) (a : Sym) (i : BitVec 3),
    (IsSymbol w a → i.toNat < widthNat w →
      AnswersWith (.getb w a i) s 0#2 (if a.getLsbD i.toNat then 1#7 else 0#7)) ∧
    (¬ IsSymbol w a → AnswersWith (.getb w a i) s 2#2 0#7) ∧
    (IsSymbol w a → ¬ i.toNat < widthNat w → AnswersWith (.getb w a i) s 3#2 0#7)

/-- R76, R68: SETB gives A with bit IDX replaced by V and every other bit as it was. -/
def Obligations.SetbAnswers : Prop :=
  ∀ (s : State) (w : SymWidth) (a : Sym) (i : BitVec 3) (v : Bool),
    (IsSymbol w a → i.toNat < widthNat w →
      ∃ data, AnswersWith (.setb w a i v) s 0#2 data ∧
        ∀ j, j < 7 → data.getLsbD j = if j = i.toNat then v else a.getLsbD j) ∧
    (¬ IsSymbol w a → AnswersWith (.setb w a i v) s 2#2 0#7) ∧
    (IsSymbol w a → ¬ i.toNat < widthNat w → AnswersWith (.setb w a i v) s 3#2 0#7)

/-- R77, R71: FLIPB gives A with bit IDX inverted and every other bit as it was. -/
def Obligations.FlipbAnswers : Prop :=
  ∀ (s : State) (w : SymWidth) (a : Sym) (i : BitVec 3),
    (IsSymbol w a → i.toNat < widthNat w →
      ∃ data, AnswersWith (.flipb w a i) s 0#2 data ∧
        ∀ j, j < 7 → data.getLsbD j = if j = i.toNat then !(a.getLsbD j) else a.getLsbD j) ∧
    (¬ IsSymbol w a → AnswersWith (.flipb w a i) s 2#2 0#7) ∧
    (IsSymbol w a → ¬ i.toNat < widthNat w → AnswersWith (.flipb w a i) s 3#2 0#7)

/-- R78, R72: HDIST counts the positions in which the symbols differ. -/
def Obligations.HdistAnswers : Prop :=
  ∀ (s : State) (w : SymWidth) (a b : Sym),
    (IsSymbol w a ∧ IsSymbol w b → AnswersWith (.hdist w a b) s 0#2 (BitVec.ofNat 7 (onesCount (a ^^^ b)))) ∧
    (¬ (IsSymbol w a ∧ IsSymbol w b) → AnswersWith (.hdist w a b) s 2#2 0#7)

/-- R79: the laws of the BitVector functions, for symbols of width W and indices below it. -/
def Obligations.BitVectorLaws : Prop :=
  ∀ (w : SymWidth) (a b c : Sym) (i : Nat) (v : Bool),
    IsSymbol w a → IsSymbol w b → IsSymbol w c → i < widthNat w →
    bvXor a a = 0#7 ∧ bvXor a 0#7 = a ∧ bvXor a b = bvXor b a ∧ bvXor (bvXor a b) c = bvXor a (bvXor b c) ∧
    bvFlip (bvFlip a i) i = a ∧
    bvGet (bvSet a i v w) i = v ∧
    (hamming a b w = 0 ↔ a = b) ∧
    hamming a c w ≤ hamming a b w + hamming b c w ∧
    hamming a (bvFlip a i) w = 1

/-- R66, R68 to R71: no function gives a value with bits at or above W, and flipping a bit is setting it to its opposite. -/
def Obligations.BitVectorResultsAreSymbols : Prop :=
  ∀ (w : SymWidth) (a b : Sym) (i : Nat) (v : Bool), IsSymbol w a → IsSymbol w b → i < widthNat w →
    IsSymbol w (bvXor a b) ∧ IsSymbol w (bvSet a i v w) ∧ IsSymbol w (bvFlip a i) ∧
    bvPopcount a w ≤ widthNat w ∧ hamming a b w ≤ widthNat w ∧
    bvFlip a i = bvSet a i (!(bvGet a i)) w

/-! ### Generator matrix (10_state.md, 41_generator.md) -/

/-- R81: GROW gives the row of its index from 0 to 3, and IndexOutOfRange from 4 on. -/
def Obligations.GrowAnswers : Prop :=
  ∀ s : State,
    AnswersWith (.grow 0#3) s 0#2 s.grom.row0 ∧ AnswersWith (.grow 1#3) s 0#2 s.grom.row1 ∧
    AnswersWith (.grow 2#3) s 0#2 s.grom.row2 ∧ AnswersWith (.grow 3#3) s 0#2 s.grom.row3 ∧
    (∀ i : BitVec 3, 4 ≤ i.toNat → AnswersWith (.grow i) s 3#2 0#7)

/-- R81, R88: GROW i does what ENC (1 << (3-i)) does, in every state and with any GROM. -/
def Obligations.GrowIsEncOfOneHot : Prop :=
  ∀ (s : State) (i : BitVec 3), i.toNat < 4 → exec (.grow i) s = exec (.enc (1#7 <<< (3 - i.toNat))) s

/-- R27, R28, R29: the values of GROM are the only ones whose rows carry their message bit, and no other, at the systematic
positions and have syndrome 0. -/
def Obligations.GromValuesAreForced : Prop :=
  ∀ g : Grom,
    ((g.row0.getLsbD 2 = true ∧ g.row0.getLsbD 4 = false ∧ g.row0.getLsbD 5 = false ∧ g.row0.getLsbD 6 = false) ∧
     (g.row1.getLsbD 2 = false ∧ g.row1.getLsbD 4 = true ∧ g.row1.getLsbD 5 = false ∧ g.row1.getLsbD 6 = false) ∧
     (g.row2.getLsbD 2 = false ∧ g.row2.getLsbD 4 = false ∧ g.row2.getLsbD 5 = true ∧ g.row2.getLsbD 6 = false) ∧
     (g.row3.getLsbD 2 = false ∧ g.row3.getLsbD 4 = false ∧ g.row3.getLsbD 5 = false ∧ g.row3.getLsbD 6 = true) ∧
     syndrome g.row0 = 0#3 ∧ syndrome g.row1 = 0#3 ∧ syndrome g.row2 = 0#3 ∧ syndrome g.row3 = 0#3) ↔
    g = Grom.rom

/-! ### Encoder (42_encoder.md) -/

/-- R84, R85: ENC gives the XOR of the rows of the message bits that are set, whatever GROM holds, and WidthMismatch for
an operand of 16 or more. -/
def Obligations.EncAnswers : Prop :=
  ∀ (s : State) (a : Sym),
    (a.toNat < 16 → AnswersWith (.enc a) s 0#2
      ((if a.getLsbD 3 then s.grom.row0 else 0#7) ^^^ (if a.getLsbD 2 then s.grom.row1 else 0#7) ^^^
       (if a.getLsbD 1 then s.grom.row2 else 0#7) ^^^ (if a.getLsbD 0 then s.grom.row3 else 0#7))) ∧
    (16 ≤ a.toNat → AnswersWith (.enc a) s 2#2 0#7)

/-- R88: with GROM's values, ENC reproduces the message bits at codeword bits 6, 5, 4 and 2, its parity bits are the sums
the rule gives, and a one-hot message gives its row. -/
def Obligations.EncIsSystematic : Prop :=
  ∀ (s : State) (m : Msg), s.GromFixed →
    ∃ c : Sym, encodeMsg s.grom m = c ∧ AnswersWith (.enc (m.setWidth 7)) s 0#2 c ∧
      c.getLsbD 6 = m.getLsbD 0 ∧ c.getLsbD 5 = m.getLsbD 1 ∧ c.getLsbD 4 = m.getLsbD 2 ∧ c.getLsbD 2 = m.getLsbD 3 ∧
      c.getLsbD 0 = (m.getLsbD 0 ^^ m.getLsbD 2 ^^ m.getLsbD 3) ∧
      c.getLsbD 1 = (m.getLsbD 0 ^^ m.getLsbD 1 ^^ m.getLsbD 3) ∧
      c.getLsbD 3 = (m.getLsbD 0 ^^ m.getLsbD 1 ^^ m.getLsbD 2) ∧
      ∀ i, i < 4 → encodeMsg s.grom (1#4 <<< (3 - i)) = s.grom.row i

/-- R86: encode is linear, whatever GROM holds, and encode(0) = 0. -/
def Obligations.EncodeIsLinear : Prop :=
  ∀ (g : Grom) (a b : Msg), encodeMsg g (a ^^^ b) = encodeMsg g a ^^^ encodeMsg g b ∧ encodeMsg g 0#4 = 0#7

/-- R87: the table of messages, codewords, weights and ENC words; the codewords are distinct, one of weight 0, seven of
weight 3, seven of weight 4 and one of weight 7. -/
def Obligations.EncodeTable : Prop :=
  ∀ s : State, s.GromFixed →
    (∀ p ∈ ([(0x0#7, 0x00#7, 0, 0x00000001#32), (0x1#7, 0x4B#7, 4, 0x00000011#32), (0x2#7, 0x2A#7, 3, 0x00000021#32),
            (0x3#7, 0x61#7, 3, 0x00000031#32), (0x4#7, 0x19#7, 3, 0x00000041#32), (0x5#7, 0x52#7, 3, 0x00000051#32),
            (0x6#7, 0x33#7, 4, 0x00000061#32), (0x7#7, 0x78#7, 4, 0x00000071#32), (0x8#7, 0x07#7, 3, 0x00000081#32),
            (0x9#7, 0x4C#7, 3, 0x00000091#32), (0xA#7, 0x2D#7, 4, 0x000000A1#32), (0xB#7, 0x66#7, 4, 0x000000B1#32),
            (0xC#7, 0x1E#7, 4, 0x000000C1#32), (0xD#7, 0x55#7, 4, 0x000000D1#32), (0xE#7, 0x34#7, 3, 0x000000E1#32),
            (0xF#7, 0x7F#7, 7, 0x000000F1#32)] : List (Sym × Sym × Nat × Word)),
      decodeWord p.2.2.2 = .ok (.enc p.1) ∧ AnswersWith (.enc p.1) s 0#2 p.2.1 ∧ onesCount p.2.1 = p.2.2.1) ∧
    (∀ a b : Msg, encodeMsg s.grom a = encodeMsg s.grom b → a = b) ∧
    (∀ p ∈ [(0, 1), (3, 7), (4, 7), (7, 1)],
      ((List.range 16).filter (fun n => onesCount (encodeMsg s.grom (BitVec.ofNat 4 n)) = p.1)).length = p.2)

/-! ### Syndrome decoder (43_decoder.md) -/

/-- R90, R95: SYND gives the 3-bit XOR of the 1-based positions of the ones, for every word. -/
def Obligations.SyndAnswers : Prop :=
  ∀ (s : State) (a : Sym), AnswersWith (.synd a) s 0#2
    (0#4 ++ BitVec.ofBool (a.getLsbD 3 ^^ a.getLsbD 4 ^^ a.getLsbD 5 ^^ a.getLsbD 6) ++
      BitVec.ofBool (a.getLsbD 1 ^^ a.getLsbD 2 ^^ a.getLsbD 5 ^^ a.getLsbD 6) ++
      BitVec.ofBool (a.getLsbD 0 ^^ a.getLsbD 2 ^^ a.getLsbD 4 ^^ a.getLsbD 6))

/-- R91: syndrome is linear; 0 on codewords; j + 1, not 0, after one flip of bit j; after two flips the XOR of the two, which is
nonzero and neither of them; and each value is taken by exactly 16 words. -/
def Obligations.SyndromeProperties : Prop :=
  ∀ s : State, s.GromFixed →
    (∀ a b : Sym, syndrome (a ^^^ b) = syndrome a ^^^ syndrome b) ∧
    (∀ m : Msg, syndrome (encodeMsg s.grom m) = 0#3) ∧
    (∀ (m : Msg) (j : Nat), j < 7 → syndrome (encodeMsg s.grom m ^^^ (1#7 <<< j)) = BitVec.ofNat 3 (j + 1) ∧
      BitVec.ofNat 3 (j + 1) ≠ 0#3) ∧
    (∀ (m : Msg) (i j : Nat), i < 7 → j < 7 → i ≠ j →
      syndrome (encodeMsg s.grom m ^^^ (1#7 <<< i) ^^^ (1#7 <<< j)) = BitVec.ofNat 3 (i + 1) ^^^ BitVec.ofNat 3 (j + 1) ∧
      BitVec.ofNat 3 (i + 1) ^^^ BitVec.ofNat 3 (j + 1) ≠ 0#3 ∧
      BitVec.ofNat 3 (i + 1) ^^^ BitVec.ofNat 3 (j + 1) ≠ BitVec.ofNat 3 (i + 1) ∧
      BitVec.ofNat 3 (i + 1) ^^^ BitVec.ofNat 3 (j + 1) ≠ BitVec.ofNat 3 (j + 1)) ∧
    (∀ y : Syndrome, ((List.range 128).filter (fun r => syndrome (BitVec.ofNat 7 r) = y)).length = 16)

/-- R92: correct flips the bit at syndrome - 1, always a legal index, if the syndrome is nonzero, and gives a codeword,
of syndrome 0, for every word. -/
def Obligations.CorrectGivesCodeword : Prop :=
  ∀ (s : State) (r : Sym), s.GromFixed →
    (syndrome r = 0#3 → correct r = r) ∧
    (syndrome r ≠ 0#3 → (syndrome r).toNat - 1 < 7 ∧ correct r = bvFlip r ((syndrome r).toNat - 1)) ∧
    syndrome (correct r) = 0#3 ∧
    ∃ m : Msg, correct r = encodeMsg s.grom m

/-- R97: DEC answers decode(A) for every word: the message of the one codeword within distance 1; each message is the
decode of exactly 8 words; with two or more bits flipped the decode is never the message sent. -/
def Obligations.DecAnswers : Prop :=
  (∀ (s : State) (a : Sym), AnswersWith (.dec a) s 0#2 ((decodeSym a).setWidth 7) ∧
    onesCount (encodeMsg Grom.rom (decodeSym a) ^^^ a) ≤ 1 ∧
    (∀ m : Msg, onesCount (encodeMsg Grom.rom m ^^^ a) ≤ 1 → m = decodeSym a)) ∧
  (∀ m : Msg, ((List.range 128).filter (fun r => decodeSym (BitVec.ofNat 7 r) = m)).length = 8) ∧
  (∀ (m : Msg) (e : Sym), 2 ≤ onesCount e → decodeSym (encodeMsg Grom.rom m ^^^ e) ≠ m)

/-- R98, R94: with GROM's values, encoding a message and decoding gives it back, and so does flipping any one bit of the
codeword between: as commands, each fed the response of the one before. -/
def Obligations.RoundTripAndSingleError : Prop :=
  ∀ (s : State) (m : Msg) (i : BitVec 3), s.GromFixed → i.toNat < 7 →
    ∃ t₁ t₂ t₃ t₄ : State,
      exec (.enc (m.setWidth 7)) s = .next t₁ ∧
      exec (.dec t₁.rspData) t₁ = .next t₂ ∧ t₂.rspStatus = 0#2 ∧ t₂.rspData = m.setWidth 7 ∧
      exec (.flipb .w7 t₁.rspData i) t₁ = .next t₃ ∧
      exec (.dec t₃.rspData) t₃ = .next t₄ ∧ t₄.rspStatus = 0#2 ∧ t₄.rspData = m.setWidth 7

/-! ### Distance analyzer (44_distance.md) -/

/-- R100, R101: whatever GROM holds, MDIST gives the smallest distance of two distinct messages' codewords. -/
def Obligations.MdistAnswers : Prop :=
  ∀ s : State, ∃ d : Nat, AnswersWith .mdist s 0#2 (BitVec.ofNat 7 d) ∧ d ≤ 7 ∧
    (∀ a b : Msg, a ≠ b → d ≤ onesCount (encodeMsg s.grom a ^^^ encodeMsg s.grom b)) ∧
    (∃ a b : Msg, a ≠ b ∧ onesCount (encodeMsg s.grom a ^^^ encodeMsg s.grom b) = d)

/-- R102: with GROM's values MDIST gives 3; of the 120 unordered pairs of codewords 56 are at distance 3, 56 at 4 and 8 at
7; the XOR of two codewords is a codeword, and the least nonzero weight is 3. -/
def Obligations.MdistIsThree : Prop :=
  ∀ s : State, s.GromFixed →
    AnswersWith .mdist s 0#2 3#7 ∧ minDistance s.grom = 3 ∧
    (∀ a b : Msg, a ≠ b → onesCount (encodeMsg s.grom a ^^^ encodeMsg s.grom b) ∈ [3, 4, 7]) ∧
    (∀ p ∈ [(3, 56), (4, 56), (7, 8)],
      ((List.range 16).flatMap (fun a => (List.range a).filter (fun b =>
        onesCount (encodeMsg s.grom (BitVec.ofNat 4 a) ^^^ encodeMsg s.grom (BitVec.ofNat 4 b)) = p.1))).length = p.2) ∧
    (∀ a b : Msg, ∃ c : Msg, encodeMsg s.grom a ^^^ encodeMsg s.grom b = encodeMsg s.grom c) ∧
    (∀ m : Msg, m ≠ 0#4 → 3 ≤ onesCount (encodeMsg s.grom m)) ∧
    (∃ m : Msg, m ≠ 0#4 ∧ onesCount (encodeMsg s.grom m) = 3)

/-! ### The host's conventions (20_memory.md, 30_encoding.md) -/

/-- R41: a byte gives its high nibble and then its low one; no byte gives no symbol; 0xA5 gives 0xA and then 0x5. -/
def Obligations.HighNibbleFirst : Prop :=
  symbolsOf [] = [] ∧
  (∀ (b : Byte) (bs : List Byte), symbolsOf (b :: bs) = b.extractLsb' 4 4 :: b.extractLsb' 0 4 :: symbolsOf bs) ∧
  symbolsOf [0xA5#8] = [0xA#4, 0x5#4]

/-- R89, R99, R98: the responses to encodeStream are the messages' codewords in order, those to decodeStream of them the
messages, and an empty stream has none. -/
def Obligations.StreamRoundTrip : Prop :=
  ∀ ms : List Msg,
    (encodeStream ms).map (wordResponse Grom.rom) = ms.map (fun m => (⟨0#2, encodeMsg Grom.rom m⟩ : Response)) ∧
    (decodeStream (ms.map (encodeMsg Grom.rom))).map (wordResponse Grom.rom)
      = ms.map (fun m => (⟨0#2, m.setWidth 7⟩ : Response))

/-- R42: the residual errors of a symbol are the differing bits of the two messages, and HDIST at width 4 computes them;
the tally over a stream is their sum, 0 for the empty stream. -/
def Obligations.ResidualErrorsByHdist : Prop :=
  (∀ (s : State) (a b : Msg),
    residualErrors a b = onesCount ((a ^^^ b).setWidth 7) ∧
    AnswersWith (.hdist .w4 (a.setWidth 7) (b.setWidth 7)) s 0#2 (BitVec.ofNat 7 (residualErrors a b))) ∧
  residualTally [] = 0 ∧
  (∀ (a b : Msg) (ps : List (Msg × Msg)), residualTally ((a, b) :: ps) = residualErrors a b + residualTally ps)

/-- R42, R78, and the tally of 95_test_vectors.md section 3.1: for every stream of messages and what they were decoded to,
the host's HDIST commands are all answered OK, whatever GROM holds, their data add up to the tally, and the tally is 0
exactly if every message was decoded to itself. -/
def Obligations.TallyByHdistCommands : Prop :=
  ∀ (g : Grom) (ps : List (Msg × Msg)),
    (∀ w ∈ tallyStream ps, (wordResponse g w).status = 0#2) ∧
    ((tallyStream ps).map (fun w => (wordResponse g w).data.toNat)).sum = residualTally ps ∧
    (residualTally ps = 0 ↔ ∀ p ∈ ps, p.1 = p.2)

/-- R42, R97, R98: the tally of a whole pipeline, in which each message is encoded, its codeword is XORed with a pattern of
flipped bits and the result is decoded: it is 0 exactly if no codeword had more than one bit flipped. -/
def Obligations.TallyZeroIffSingleErrors : Prop :=
  ∀ es : List (Msg × Sym),
    residualTally (es.map (fun e => (e.1, decodeSym (encodeMsg Grom.rom e.1 ^^^ e.2)))) = 0 ↔
      ∀ e ∈ es, onesCount e.2 ≤ 1
end

