-- ==== Sys2Proof/Laws/Codec.lean ====
section
/-! SUPPORT. The operand checks, and what every operation of the codec does to the state: a response and nothing else. -/

namespace Sys2Proof.Machine

/-- The width check of R56 says that the operand is a symbol of the width. -/
theorem fits_iff_lt (x : Sym) (w : SymWidth) : fits x w = true ↔ x.toNat < 2 ^ widthNat w := by
  cases w
  · simp only [fits, widthNat]
    have h : (x.extractLsb' 4 3 == 0#3) = decide (x.toNat < 16) := by
      revert x; decide
    simp [h]
  · simp only [fits, widthNat]
    have := x.isLt
    simp only [beq_self_eq_true, Bool.true_or, true_iff]
    omega

/-- A width check passes the answer on for operands that fit. -/
theorem checkWidth_of_true {ok : Bool} (h : ok = true) (r : Answer) : checkWidth ok r = r := by
  simp [checkWidth, h]

/-- A width check that fails raises WidthMismatch, whatever would come after it (R110). -/
theorem checkWidth_of_false {ok : Bool} (h : ok = false) (r : Answer) : checkWidth ok r = .error .widthMismatch := by
  simp [checkWidth, h]

/-- An index check passes the answer on for an index in range. -/
theorem checkIndex_of_lt {idx : BitVec 3} {n : Nat} (h : idx.toNat < n) (r : Answer) : checkIndex idx n r = r := by
  simp [checkIndex, h]

/-- An index check that fails raises IndexOutOfRange (R109). -/
theorem checkIndex_of_not_lt {idx : BitVec 3} {n : Nat} (h : ¬ idx.toNat < n) (r : Answer) :
    checkIndex idx n r = .error .indexOutOfRange := by
  simp [checkIndex, h]

/-- Raising an error gives its code with data 0 and does nothing else (R105). -/
theorem raise_eq (e : CodecError) (s : State) : raise e s = .next (s.answer ⟨e.code, 0#7⟩) := rfl

/-- An operation ends with the response of its answer, and always answers a next state. -/
theorem finish_eq (a : Answer) (s : State) : finish a s = .next (s.answer (responseOf a)) := by
  cases a <;> rfl

/-- Every arm of exec ends the operation of its instruction, as R62 lists them. -/
theorem exec_eq_finish (i : Instr) (s : State) : exec i s = finish (answerOf s.grom i) s := by
  cases i <;> rfl

/-- What a decoded command does: the response of its answer, read from the instruction and GROM alone (R33). -/
theorem exec_eq (i : Instr) (s : State) : exec i s = .next (s.answer (responseOf (answerOf s.grom i))) := by
  rw [exec_eq_finish, finish_eq]

/-- A response is the OK response exactly for a result. -/
theorem responseOf_status_ok (a : Answer) : (responseOf a).status = statusOk ↔ ∃ d, a = .ok d := by
  cases a with
  | ok d => simp [responseOf]
  | error e => cases e <;> simp [responseOf, CodecError.code, statusOk]

/-- Every response with a status other than OK carries data 0 (R105). -/
theorem responseOf_data_zero (a : Answer) (h : (responseOf a).status ≠ statusOk) : (responseOf a).data = 0#7 := by
  cases a with
  | ok d => exact absurd rfl h
  | error e => rfl

end Sys2Proof.Machine
end

