-- ==== Sys2Proof/Laws/Decode.lean ====
section
/-! SUPPORT. Bit fields of command words, what each row of the opcode map selects, and the fields of an encoded
instruction. -/

namespace Sys2Proof

open Sys2Proof.Machine

/-- A field has a value exactly when each of its bits has. -/
theorem extract_eq_iff {n : Nat} (w : Word) (lo : Nat) (v : BitVec n) :
    w.extractLsb' lo n = v ↔ ∀ j < n, w.getLsbD (lo + j) = v.getLsbD j := by
  constructor
  · rintro rfl j hj; simp [hj]
  · intro h; apply BitVec.eq_of_getLsbD_eq; intro i hi; simp [hi, h i hi]

/-- A masked word has a value exactly when each of its bits has. -/
theorem and_eq_iff (w m v : Word) : w &&& m = v ↔ ∀ j < 32, (w.getLsbD j && m.getLsbD j) = v.getLsbD j := by
  constructor
  · rintro rfl j hj; simp
  · intro h; apply BitVec.eq_of_getLsbD_eq; intro i hi; simp [h i hi]

/-- The row of an operation in the opcode map. -/
def rowOf : Op → OpRow
  | .enc   => ⟨.enc,   0x00000001#32, 0xFFFFF80F#32⟩
  | .dec   => ⟨.dec,   0x00000002#32, 0xFFFFF80F#32⟩
  | .mdist => ⟨.mdist, 0x00000003#32, 0xFFFFFFFF#32⟩
  | .grow  => ⟨.grow,  0x00000004#32, 0xFFE3FFFF#32⟩
  | .synd  => ⟨.synd,  0x00000005#32, 0xFFFFF80F#32⟩
  | .bxor  => ⟨.bxor,  0x00000006#32, 0xFFBC000F#32⟩
  | .popc  => ⟨.popc,  0x00000007#32, 0xFFBFF80F#32⟩
  | .getb  => ⟨.getb,  0x00000008#32, 0xFFA3F80F#32⟩
  | .setb  => ⟨.setb,  0x00000009#32, 0xFF83F80F#32⟩
  | .flipb => ⟨.flipb, 0x0000000A#32, 0xFFA3F80F#32⟩
  | .hdist => ⟨.hdist, 0x0000000B#32, 0xFFBC000F#32⟩

/-- The opcode map has exactly one row per operation. -/
theorem mem_opTable_iff (r : OpRow) : r ∈ opTable ↔ r = rowOf r.op := by
  constructor
  · intro h
    simp only [opTable, List.mem_cons, List.not_mem_nil, or_false] at h
    rcases h with rfl | rfl | rfl | rfl | rfl | rfl | rfl | rfl | rfl | rfl | rfl <;> rfl
  · intro h
    rw [h]
    cases r.op <;> simp [rowOf, opTable]

/-- A row selects the words with its OP code, RSVD = 0 and every must-be-zero field zero (R59, R60). -/
theorem rowOf_selects_iff (op : Op) (w : Word) :
    (rowOf op).selects w = true ↔ opField w = opCode op ∧ rsvdField w = 0#9 ∧ OperandFieldsOnly op w := by
  cases op <;>
  · simp only [rowOf, OpRow.selects, beq_iff_eq, and_eq_iff, OperandFieldsOnly, opCode, opField, rsvdField, aField,
      bField, idxField, vField, wField, extract_eq_iff]
    simp only [Nat.forall_lt_succ_right, Nat.not_lt_zero, false_implies, implies_true, true_and]
    simp only [BitVec.getLsbD_ofNat, Nat.reduceAdd, Nat.reduceLT]
    simp [Nat.testBit, and_assoc]
    try grind

/-- Every instruction is well formed: each operand has the width of its field. -/
theorem wellFormed_of_instr (i : Instr) : i.wellFormed = true := by
  have ha : ∀ a : Sym, fitsSymField a.toNat = true := fun a => by simp only [fitsSymField, decide_eq_true_eq]; omega
  have hi : ∀ j : BitVec 3, fitsIdxField j.toNat = true := fun j => by simp only [fitsIdxField, decide_eq_true_eq]; omega
  have hv : ∀ v : Bool, fitsBitField v.toNat = true := fun v => by cases v <;> rfl
  cases i <;> simp [Instr.wellFormed, ha, hi, hv]

section Fields

variable (w v : BitVec 1) (idx : BitVec 3) (b a : Sym) (op : BitVec 4)

/-- Each bit of an assembled word is a bit of one of its fields (R54). -/
theorem getLsbD_assembleFields (i : Nat) :
    (assembleFields w v idx b a op).getLsbD i =
      if i < 4 then op.getLsbD i
      else if i < 11 then a.getLsbD (i - 4)
      else if i < 18 then b.getLsbD (i - 11)
      else if i < 21 then idx.getLsbD (i - 18)
      else if i < 22 then v.getLsbD (i - 21)
      else w.getLsbD (i - 22) := by
  unfold assembleFields
  rw [BitVec.getLsbD_setWidth]
  by_cases h32 : i < 32
  · simp only [h32, decide_true, Bool.true_and]
    grind
  · simp only [h32, decide_false, Bool.false_and]
    have : 1 ≤ i - 22 := by omega
    grind

@[simp] theorem opField_assembleFields : opField (assembleFields w v idx b a op) = op := by
  apply BitVec.eq_of_getLsbD_eq; intro i hi
  simp only [opField, BitVec.getLsbD_extractLsb', getLsbD_assembleFields]
  grind

@[simp] theorem aField_assembleFields : aField (assembleFields w v idx b a op) = a := by
  apply BitVec.eq_of_getLsbD_eq; intro i hi
  simp only [aField, BitVec.getLsbD_extractLsb', getLsbD_assembleFields]
  grind

@[simp] theorem bField_assembleFields : bField (assembleFields w v idx b a op) = b := by
  apply BitVec.eq_of_getLsbD_eq; intro i hi
  simp only [bField, BitVec.getLsbD_extractLsb', getLsbD_assembleFields]
  grind

@[simp] theorem idxField_assembleFields : idxField (assembleFields w v idx b a op) = idx := by
  apply BitVec.eq_of_getLsbD_eq; intro i hi
  simp only [idxField, BitVec.getLsbD_extractLsb', getLsbD_assembleFields]
  grind

@[simp] theorem vField_assembleFields : vField (assembleFields w v idx b a op) = v := by
  apply BitVec.eq_of_getLsbD_eq; intro i hi
  simp only [vField, BitVec.getLsbD_extractLsb', getLsbD_assembleFields]
  grind

@[simp] theorem wField_assembleFields : wField (assembleFields w v idx b a op) = w := by
  apply BitVec.eq_of_getLsbD_eq; intro i hi
  simp only [wField, BitVec.getLsbD_extractLsb', getLsbD_assembleFields]
  grind

@[simp] theorem rsvdField_assembleFields : rsvdField (assembleFields w v idx b a op) = 0#9 := by
  apply BitVec.eq_of_getLsbD_eq; intro i hi
  simp only [rsvdField, BitVec.getLsbD_extractLsb', getLsbD_assembleFields]
  have : 1 ≤ 23 + i - 22 := by omega
  grind

end Fields

/-- A word with RSVD = 0 is its fields put together again (R54). -/
theorem assembleFields_fields {x : Word} (h : rsvdField x = 0#9) :
    assembleFields (wField x) (vField x) (idxField x) (bField x) (aField x) (opField x) = x := by
  apply BitVec.eq_of_getLsbD_eq; intro i hi
  unfold rsvdField at h
  rw [extract_eq_iff] at h
  have h' := h (i - 23)
  simp only [getLsbD_assembleFields, opField, aField, bField, idxField, vField, wField, BitVec.getLsbD_extractLsb']
  grind

/-- The bit of a width selects that width (R58). -/
@[simp] theorem widthOfBit_bitOfWidth (w : SymWidth) : widthOfBit (bitOfWidth w) = w := by
  cases w <;> rfl

/-- The width a bit selects has that bit (R58). -/
@[simp] theorem bitOfWidth_widthOfBit (w : BitVec 1) : bitOfWidth (widthOfBit w) = w := by
  revert w; decide

/-- A bit value is read back from its field. -/
@[simp] theorem ofBool_beq_one (v : Bool) : (BitVec.ofBool v == 1#1) = v := by
  cases v <;> rfl

end Sys2Proof
end

