-- ==== Sys2Proof/Laws/Functions.lean ====
section
/-! SUPPORT. One lemma per function of the codec that says what it computes: popcount, encode, and the enumeration of
minDistance. -/

namespace Sys2Proof.Machine

/-- The XOR of two symbols of a width is one (R69). -/
theorem isSymbol_xor {w : SymWidth} {a b : Sym} (ha : IsSymbol w a) (hb : IsSymbol w b) : IsSymbol w (a ^^^ b) := by
  unfold IsSymbol at *
  rw [BitVec.toNat_xor]
  exact Nat.xor_lt_two_pow ha hb

/-- The popcount of a symbol is the number of its ones (R70). -/
theorem bvPopcount_eq_onesCount {w : SymWidth} {a : Sym} (h : IsSymbol w a) : bvPopcount a w = onesCount a := by
  have h4 : ∀ x : Sym, IsSymbol .w4 x → bvPopcount x .w4 = onesCount x := by decide +kernel
  have h7 : ∀ x : Sym, bvPopcount x .w7 = onesCount x := by decide +kernel
  cases w
  · exact h4 a h
  · exact h7 a

/-- encode is the sum of the rows of the message bits that are set (R84). -/
theorem encodeMsg_eq (g : Grom) (m : Msg) :
    encodeMsg g m =
      ((if m.getLsbD 3 then g.row0 else 0#7) ^^^ (if m.getLsbD 2 then g.row1 else 0#7) ^^^
       (if m.getLsbD 1 then g.row2 else 0#7) ^^^ (if m.getLsbD 0 then g.row3 else 0#7)) := by
  simp only [encodeMsg, encodeRound, List.foldl, Grom.row, Nat.sub_zero, Nat.reduceSub]
  cases m.getLsbD 3 <;> cases m.getLsbD 2 <;> cases m.getLsbD 1 <;> cases m.getLsbD 0 <;> simp

/-- The residual errors of two messages are the number of bits in which they differ (R42). -/
theorem residualErrors_eq_onesCount (m d : Msg) : residualErrors m d = onesCount ((m ^^^ d).setWidth 7) := by
  revert m d; decide +kernel

/-- Two messages have no residual errors exactly if they are the same (R42). -/
theorem residualErrors_eq_zero_iff (m d : Msg) : residualErrors m d = 0 ↔ m = d := by
  revert m d; decide +kernel

/-- The tally is the sum of the symbols' residual errors (R42). -/
theorem residualTally_eq_sum (ps : List (Msg × Msg)) :
    residualTally ps = (ps.map (fun p => residualErrors p.1 p.2)).sum := by
  induction ps with
  | nil => rfl
  | cons p ps ih => simp [residualTally, ih]

/-- Lowering a distance by one codeword against others gives the least of it and of their distances. -/
theorem lowerBest_spec (c : Sym) (l : List Sym) (best : Nat) :
    lowerBest c l best ≤ best ∧ (∀ d ∈ l, lowerBest c l best ≤ hamming c d .w7) ∧
    (lowerBest c l best = best ∨ ∃ d ∈ l, lowerBest c l best = hamming c d .w7) := by
  induction l generalizing best with
  | nil => simp [lowerBest]
  | cons x l ih =>
    obtain ⟨h1, h2, h3⟩ := ih (min best (hamming c x .w7))
    have e : lowerBest c (x :: l) best = lowerBest c l (min best (hamming c x .w7)) := rfl
    rw [e]
    refine ⟨by omega, fun d hd => ?_, ?_⟩
    · rcases List.mem_cons.1 hd with rfl | hd
      · omega
      · exact h2 d hd
    · rcases h3 with h | ⟨d, hd, h⟩
      · by_cases hb : best ≤ hamming c x .w7
        · exact .inl (by omega)
        · exact .inr ⟨x, by simp, by omega⟩
      · exact .inr ⟨d, by simp [hd], h⟩

/-- The enumeration of R100 gives the least of the starting value and of all pairs' distances. -/
theorem minOverPairs_spec (l : List Sym) (best : Nat) :
    minOverPairs l best ≤ best ∧ l.Pairwise (fun c d => minOverPairs l best ≤ hamming c d .w7) ∧
    (minOverPairs l best = best ∨
      ∃ i j : Nat, ∃ (hij : i < j) (hj : j < l.length), minOverPairs l best = hamming (l[i]'(by omega)) l[j] .w7) := by
  induction l generalizing best with
  | nil => simp [minOverPairs]
  | cons c l ih =>
    obtain ⟨h1, h2, h3⟩ := ih (lowerBest c l best)
    obtain ⟨l1, l2, l3⟩ := lowerBest_spec c l best
    have e : minOverPairs (c :: l) best = minOverPairs l (lowerBest c l best) := rfl
    rw [e]
    refine ⟨by omega, List.pairwise_cons.2 ⟨fun d hd => le_trans h1 (l2 d hd), h2⟩, ?_⟩
    rcases h3 with h | ⟨i, j, hij, hj, h⟩
    · rcases l3 with h' | ⟨d, hd, h'⟩
      · exact .inl (by omega)
      · obtain ⟨k, hk, rfl⟩ := List.getElem_of_mem hd
        refine .inr ⟨0, k + 1, by omega, by simpa using hk, ?_⟩
        simp
        omega
    · exact .inr ⟨i + 1, j + 1, by omega, by simpa using hj, by simpa using h⟩

end Sys2Proof.Machine
end

