-- ==== Sys2Proof/Laws/PerInstr.lean ====
section
/-! SUPPORT. The per-instruction family RowForm: the encoded word is one that the instruction's own row of the opcode map
selects, and its operand fields are read back unchanged (30_encoding.md R54, R59). -/

namespace Sys2Proof.Laws

open Sys2Proof.Machine

/-- The word of the instruction is selected by the row of its operation, and the row's operands are the instruction's. -/
def RowForm.Statement (i : Instr) : Prop :=
  (rowOf i.op).selects (encode i) = true ∧ buildInstr i.op (encode i) = i

theorem RowForm.enc (a : Sym) : RowForm.Statement (.enc a) := by
  simp [RowForm.Statement, rowOf_selects_iff, Instr.op, encode, opCode, OperandFieldsOnly, buildInstr]

theorem RowForm.dec (a : Sym) : RowForm.Statement (.dec a) := by
  simp [RowForm.Statement, rowOf_selects_iff, Instr.op, encode, opCode, OperandFieldsOnly, buildInstr]

theorem RowForm.mdist : RowForm.Statement .mdist := by
  simp [RowForm.Statement, rowOf_selects_iff, Instr.op, encode, opCode, OperandFieldsOnly, buildInstr]

theorem RowForm.grow (idx : BitVec 3) : RowForm.Statement (.grow idx) := by
  simp [RowForm.Statement, rowOf_selects_iff, Instr.op, encode, opCode, OperandFieldsOnly, buildInstr]

theorem RowForm.synd (a : Sym) : RowForm.Statement (.synd a) := by
  simp [RowForm.Statement, rowOf_selects_iff, Instr.op, encode, opCode, OperandFieldsOnly, buildInstr]

theorem RowForm.bxor (w : SymWidth) (a b : Sym) : RowForm.Statement (.bxor w a b) := by
  simp [RowForm.Statement, rowOf_selects_iff, Instr.op, encode, opCode, OperandFieldsOnly, buildInstr]

theorem RowForm.popc (w : SymWidth) (a : Sym) : RowForm.Statement (.popc w a) := by
  simp [RowForm.Statement, rowOf_selects_iff, Instr.op, encode, opCode, OperandFieldsOnly, buildInstr]

theorem RowForm.getb (w : SymWidth) (a : Sym) (idx : BitVec 3) : RowForm.Statement (.getb w a idx) := by
  simp [RowForm.Statement, rowOf_selects_iff, Instr.op, encode, opCode, OperandFieldsOnly, buildInstr]

theorem RowForm.setb (w : SymWidth) (a : Sym) (idx : BitVec 3) (v : Bool) : RowForm.Statement (.setb w a idx v) := by
  simp [RowForm.Statement, rowOf_selects_iff, Instr.op, encode, opCode, OperandFieldsOnly, buildInstr]

theorem RowForm.flipb (w : SymWidth) (a : Sym) (idx : BitVec 3) : RowForm.Statement (.flipb w a idx) := by
  simp [RowForm.Statement, rowOf_selects_iff, Instr.op, encode, opCode, OperandFieldsOnly, buildInstr]

theorem RowForm.hdist (w : SymWidth) (a b : Sym) : RowForm.Statement (.hdist w a b) := by
  simp [RowForm.Statement, rowOf_selects_iff, Instr.op, encode, opCode, OperandFieldsOnly, buildInstr]

end Sys2Proof.Laws
end

