-- ==== Sys2Proof/Laws/State.lean ====
section
/-! SUPPORT. What each named update of State leaves in each field, true by unfolding once; no later proof unfolds an update. -/

namespace Sys2Proof.Machine

variable (s : State)

/-! ### State.answer -/

@[simp] theorem State.answer_grom (r : Response) : (s.answer r).grom = s.grom := rfl
@[simp] theorem State.answer_phase (r : Response) : (s.answer r).phase = .resp := rfl
@[simp] theorem State.answer_pend (r : Response) : (s.answer r).pend = s.pend := rfl
@[simp] theorem State.answer_cycles (r : Response) : (s.answer r).cycles = s.cycles := rfl
@[simp] theorem State.answer_rspStatus (r : Response) : (s.answer r).rspStatus = r.status := rfl
@[simp] theorem State.answer_rspData (r : Response) : (s.answer r).rspData = r.data := rfl
@[simp] theorem State.answer_inputs (r : Response) : (s.answer r).inputs = s.inputs := rfl
@[simp] theorem State.answer_edges (r : Response) : (s.answer r).edges = s.edges := rfl
@[simp] theorem State.answer_offered (r : Response) : (s.answer r).offered = s.offered := rfl
@[simp] theorem State.answer_resetDone (r : Response) : (s.answer r).resetDone = s.resetDone := rfl
@[simp] theorem State.answer_accepted (r : Response) : (s.answer r).accepted = s.accepted := rfl
@[simp] theorem State.answer_responses (r : Response) : (s.answer r).responses = s.responses := rfl
@[simp] theorem State.answer_faultRecord (r : Response) : (s.answer r).faultRecord = s.faultRecord := rfl

/-! ### State.tick -/

@[simp] theorem State.tick_grom : (s.tick).grom = s.grom := rfl
@[simp] theorem State.tick_phase : (s.tick).phase = s.phase := rfl
@[simp] theorem State.tick_pend : (s.tick).pend = s.pend := rfl
@[simp] theorem State.tick_cycles : (s.tick).cycles = s.cycles := rfl
@[simp] theorem State.tick_rspStatus : (s.tick).rspStatus = s.rspStatus := rfl
@[simp] theorem State.tick_rspData : (s.tick).rspData = s.rspData := rfl
@[simp] theorem State.tick_inputs : (s.tick).inputs = s.inputs.tail := rfl
@[simp] theorem State.tick_edges : (s.tick).edges = s.edges + 1 := rfl
@[simp] theorem State.tick_offered :
    (s.tick).offered = (if s.sample.cmdValid then some s.sample.cmdWord else none) := rfl
@[simp] theorem State.tick_resetDone : (s.tick).resetDone = s.resetDone := rfl
@[simp] theorem State.tick_accepted : (s.tick).accepted = s.accepted := rfl
@[simp] theorem State.tick_responses : (s.tick).responses = s.responses := rfl
@[simp] theorem State.tick_faultRecord : (s.tick).faultRecord = s.faultRecord := rfl

/-! ### State.accept -/

@[simp] theorem State.accept_grom (w : Word) : (s.accept w).grom = s.grom := rfl
@[simp] theorem State.accept_phase (w : Word) : (s.accept w).phase = .exec := rfl
@[simp] theorem State.accept_pend (w : Word) : (s.accept w).pend = w := rfl
@[simp] theorem State.accept_cycles (w : Word) : (s.accept w).cycles = Config.latency (opField w) := rfl
@[simp] theorem State.accept_rspStatus (w : Word) : (s.accept w).rspStatus = s.rspStatus := rfl
@[simp] theorem State.accept_rspData (w : Word) : (s.accept w).rspData = s.rspData := rfl
@[simp] theorem State.accept_inputs (w : Word) : (s.accept w).inputs = s.inputs := rfl
@[simp] theorem State.accept_edges (w : Word) : (s.accept w).edges = s.edges := rfl
@[simp] theorem State.accept_offered (w : Word) : (s.accept w).offered = none := rfl
@[simp] theorem State.accept_resetDone (w : Word) : (s.accept w).resetDone = s.resetDone := rfl
@[simp] theorem State.accept_accepted (w : Word) : (s.accept w).accepted = s.accepted ++ [w] := rfl
@[simp] theorem State.accept_responses (w : Word) : (s.accept w).responses = s.responses := rfl
@[simp] theorem State.accept_faultRecord (w : Word) : (s.accept w).faultRecord = s.faultRecord := rfl

/-! ### State.countDown -/

@[simp] theorem State.countDown_grom : (s.countDown).grom = s.grom := rfl
@[simp] theorem State.countDown_phase : (s.countDown).phase = s.phase := rfl
@[simp] theorem State.countDown_pend : (s.countDown).pend = s.pend := rfl
@[simp] theorem State.countDown_cycles : (s.countDown).cycles = s.cycles - 1 := rfl
@[simp] theorem State.countDown_rspStatus : (s.countDown).rspStatus = s.rspStatus := rfl
@[simp] theorem State.countDown_rspData : (s.countDown).rspData = s.rspData := rfl
@[simp] theorem State.countDown_inputs : (s.countDown).inputs = s.inputs := rfl
@[simp] theorem State.countDown_edges : (s.countDown).edges = s.edges := rfl
@[simp] theorem State.countDown_offered : (s.countDown).offered = s.offered := rfl
@[simp] theorem State.countDown_resetDone : (s.countDown).resetDone = s.resetDone := rfl
@[simp] theorem State.countDown_accepted : (s.countDown).accepted = s.accepted := rfl
@[simp] theorem State.countDown_responses : (s.countDown).responses = s.responses := rfl
@[simp] theorem State.countDown_faultRecord : (s.countDown).faultRecord = s.faultRecord := rfl

/-! ### State.takeResponse -/

@[simp] theorem State.takeResponse_grom : (s.takeResponse).grom = s.grom := rfl
@[simp] theorem State.takeResponse_phase : (s.takeResponse).phase = .idle := rfl
@[simp] theorem State.takeResponse_pend : (s.takeResponse).pend = s.pend := rfl
@[simp] theorem State.takeResponse_cycles : (s.takeResponse).cycles = s.cycles := rfl
@[simp] theorem State.takeResponse_rspStatus : (s.takeResponse).rspStatus = s.rspStatus := rfl
@[simp] theorem State.takeResponse_rspData : (s.takeResponse).rspData = s.rspData := rfl
@[simp] theorem State.takeResponse_inputs : (s.takeResponse).inputs = s.inputs := rfl
@[simp] theorem State.takeResponse_edges : (s.takeResponse).edges = s.edges := rfl
@[simp] theorem State.takeResponse_offered : (s.takeResponse).offered = s.offered := rfl
@[simp] theorem State.takeResponse_resetDone : (s.takeResponse).resetDone = s.resetDone := rfl
@[simp] theorem State.takeResponse_accepted : (s.takeResponse).accepted = s.accepted := rfl
@[simp] theorem State.takeResponse_responses : (s.takeResponse).responses = s.responses ++ [⟨s.rspStatus, s.rspData⟩] := rfl
@[simp] theorem State.takeResponse_faultRecord :
    (s.takeResponse).faultRecord = (if s.rspStatus = statusOk then s.faultRecord else s.faultRecord ++ [s.rspStatus]) := rfl

/-! ### State.loadReset -/

@[simp] theorem State.loadReset_grom : (s.loadReset).grom = s.grom := rfl
@[simp] theorem State.loadReset_phase : (s.loadReset).phase = .idle := rfl
@[simp] theorem State.loadReset_pend : (s.loadReset).pend = Config.freePend s.edges := rfl
@[simp] theorem State.loadReset_cycles : (s.loadReset).cycles = Config.freeCycles s.edges := rfl
@[simp] theorem State.loadReset_rspStatus : (s.loadReset).rspStatus = 0#2 := rfl
@[simp] theorem State.loadReset_rspData : (s.loadReset).rspData = 0#7 := rfl
@[simp] theorem State.loadReset_inputs : (s.loadReset).inputs = s.inputs := rfl
@[simp] theorem State.loadReset_edges : (s.loadReset).edges = s.edges := rfl
@[simp] theorem State.loadReset_offered : (s.loadReset).offered = s.offered := rfl
@[simp] theorem State.loadReset_resetDone : (s.loadReset).resetDone = true := rfl
@[simp] theorem State.loadReset_accepted : (s.loadReset).accepted = [] := rfl
@[simp] theorem State.loadReset_responses : (s.loadReset).responses = [] := rfl
@[simp] theorem State.loadReset_faultRecord : (s.loadReset).faultRecord = s.faultRecord := rfl

/-! ### State.unspecified -/

@[simp] theorem State.unspecified_grom : (s.unspecified).grom = s.grom := rfl
@[simp] theorem State.unspecified_phase : (s.unspecified).phase = phaseOfNat (Config.freePhase s.edges) := rfl
@[simp] theorem State.unspecified_pend : (s.unspecified).pend = Config.freePend s.edges := rfl
@[simp] theorem State.unspecified_cycles : (s.unspecified).cycles = Config.freeCycles s.edges := rfl
@[simp] theorem State.unspecified_rspStatus : (s.unspecified).rspStatus = Config.freeRspStatus s.edges := rfl
@[simp] theorem State.unspecified_rspData : (s.unspecified).rspData = Config.freeRspData s.edges := rfl
@[simp] theorem State.unspecified_inputs : (s.unspecified).inputs = s.inputs := rfl
@[simp] theorem State.unspecified_edges : (s.unspecified).edges = s.edges := rfl
@[simp] theorem State.unspecified_offered : (s.unspecified).offered = s.offered := rfl
@[simp] theorem State.unspecified_resetDone : (s.unspecified).resetDone = s.resetDone := rfl
@[simp] theorem State.unspecified_accepted : (s.unspecified).accepted = s.accepted := rfl
@[simp] theorem State.unspecified_responses : (s.unspecified).responses = s.responses := rfl
@[simp] theorem State.unspecified_faultRecord : (s.unspecified).faultRecord = s.faultRecord := rfl

/-! ### State.loadCommand -/

@[simp] theorem State.loadCommand_grom (w : Word) : (s.loadCommand w).grom = s.grom := rfl
@[simp] theorem State.loadCommand_phase (w : Word) : (s.loadCommand w).phase = .exec := rfl
@[simp] theorem State.loadCommand_pend (w : Word) : (s.loadCommand w).pend = w := rfl
@[simp] theorem State.loadCommand_cycles (w : Word) : (s.loadCommand w).cycles = 1 := rfl
@[simp] theorem State.loadCommand_rspStatus (w : Word) : (s.loadCommand w).rspStatus = s.rspStatus := rfl
@[simp] theorem State.loadCommand_rspData (w : Word) : (s.loadCommand w).rspData = s.rspData := rfl
@[simp] theorem State.loadCommand_inputs (w : Word) : (s.loadCommand w).inputs = s.restSample :: s.inputs := rfl
@[simp] theorem State.loadCommand_edges (w : Word) : (s.loadCommand w).edges = s.edges := rfl
@[simp] theorem State.loadCommand_offered (w : Word) : (s.loadCommand w).offered = s.offered := rfl
@[simp] theorem State.loadCommand_resetDone (w : Word) : (s.loadCommand w).resetDone = true := rfl
@[simp] theorem State.loadCommand_accepted (w : Word) : (s.loadCommand w).accepted = s.accepted := rfl
@[simp] theorem State.loadCommand_responses (w : Word) : (s.loadCommand w).responses = s.responses := rfl
@[simp] theorem State.loadCommand_faultRecord (w : Word) : (s.loadCommand w).faultRecord = s.faultRecord := rfl

end Sys2Proof.Machine
end

