-- ==== Sys2Proof/Laws/Step.lean ====
section
/-! SUPPORT. What one clock edge can do, said once: each transition in its own lemma, and the inversion `step_cases` that
every invariant is derived from. -/

namespace Sys2Proof.Machine

/-- Exec(PEND) ends every word's command with the response of R62, legal or illegal. -/
theorem execWord_eq (w : Word) (s : State) : execWord w s = .next (s.answer (wordResponse s.grom w)) := by
  unfold execWord wordResponse
  cases decodeWord w with
  | ok i => exact exec_eq i s
  | error e => rfl

/-- Every response of R62 with a status other than OK carries data 0 (R105). -/
theorem wordResponse_data_zero (g : Grom) (w : Word) (h : (wordResponse g w).status ≠ statusOk) :
    (wordResponse g w).data = 0#7 := by
  unfold wordResponse at h ⊢
  cases hd : decodeWord w with
  | ok i => rw [hd] at h; exact responseOf_data_zero _ h
  | error e => rfl

/-- A host that meets its duties gets the effect of the edge. -/
theorem step_of_hostObeys {s : State} (h : s.HostObeys) : step s = edgeEffect s := by
  obtain ⟨hd, ha, hb⟩ := h
  have h1 : (!s.resetDone && s.sample.cmdValid) = false := by
    cases hr : s.resetDone
    · simp [hd hr]
    · rfl
  have h2 : s.offerHeld s.sample = true := by
    unfold State.offerHeld
    cases ho : s.offered with
    | none => rfl
    | some w => have := ha w ho; simp [this]
  have h3 : (s.sample.rspRead && !s.holdsResponse) = false := by
    cases hr : s.sample.rspRead
    · rfl
    · simp [hb hr]
  simp [step, clockEdge, h1, h2, h3]

/-- Only a host that meets its duties gets a next state. -/
theorem hostObeys_of_step {s t : State} (h : step s = .next t) : s.HostObeys := by
  unfold step clockEdge at h
  split at h
  · cases h
  · rename_i h1
    split at h
    · cases h
    · rename_i h2
      split at h
      · cases h
      · rename_i h3
        refine ⟨fun hr => ?_, fun w ho => ?_, fun hr => ?_⟩
        · simpa [hr] using h1
        · unfold State.offerHeld at h2
          rw [ho] at h2
          simpa using h2
        · simpa [hr] using h3

/-- An edge with rst = 1 loads the reset values (R123). -/
theorem edgeEffect_reset {s : State} (h : s.sample.rst = true) : edgeEffect s = .next s.tick.loadReset := by
  simp [edgeEffect, h]

/-- An edge without reset before the first reset leaves all but GROM unspecified (R126). -/
theorem edgeEffect_unspecified {s : State} (h : s.sample.rst = false) (hr : s.resetDone = false) :
    edgeEffect s = .next s.tick.unspecified := by
  simp [edgeEffect, h, hr]

/-- An edge that takes a transition of R31. -/
theorem edgeEffect_transition {s : State} (h : s.sample.rst = false) (hr : s.resetDone = true) :
    edgeEffect s = transition s.sample s.tick := by
  simp [edgeEffect, h, hr]

/-- The transition of IDLE (R31). -/
theorem transition_idle {p : PortSample} {s : State} (h : s.phase = .idle) :
    transition p s = .next (if p.cmdValid then s.accept p.cmdWord else s) := by
  unfold transition idleEdge
  rw [h]
  cases p.cmdValid <;> rfl

/-- The transition of EXEC (R31). -/
theorem transition_exec {p : PortSample} {s : State} (h : s.phase = .exec) :
    transition p s = .next (if s.cycles ≤ 1 then s.answer (wordResponse s.grom s.pend) else s.countDown) := by
  unfold transition
  rw [h]
  show execEdge s = _
  unfold execEdge
  rw [execWord_eq]
  split <;> rfl

/-- The transition of RESP (R31). -/
theorem transition_resp {p : PortSample} {s : State} (h : s.phase = .resp) :
    transition p s = .next (if p.rspReady then s.takeResponse else s) := by
  unfold transition respEdge
  rw [h]
  cases p.rspReady <;> rfl

/-- A transition always answers a next state. -/
theorem transition_next (p : PortSample) (s : State) : ∃ t, transition p s = .next t := by
  cases h : s.phase with
  | idle => exact ⟨_, transition_idle h⟩
  | exec => exact ⟨_, transition_exec h⟩
  | resp => exact ⟨_, transition_resp h⟩

/-- Everything an edge that answers a next state can have done. -/
inductive EdgeCase (s : State) : State → Prop where
  | reset (hr : s.sample.rst = true) : EdgeCase s s.tick.loadReset
  | unspecified (hr : s.sample.rst = false) (hd : s.resetDone = false) : EdgeCase s s.tick.unspecified
  | transfer (hr : s.sample.rst = false) (hd : s.resetDone = true) (hp : s.phase = .idle)
      (hv : s.sample.cmdValid = true) : EdgeCase s (s.tick.accept s.sample.cmdWord)
  | idle (hr : s.sample.rst = false) (hd : s.resetDone = true) (hp : s.phase = .idle)
      (hv : s.sample.cmdValid = false) : EdgeCase s s.tick
  | counting (hr : s.sample.rst = false) (hd : s.resetDone = true) (hp : s.phase = .exec)
      (hc : 1 < s.cycles) : EdgeCase s s.tick.countDown
  | done (hr : s.sample.rst = false) (hd : s.resetDone = true) (hp : s.phase = .exec)
      (hc : s.cycles ≤ 1) : EdgeCase s (s.tick.answer (wordResponse s.grom s.pend))
  | taken (hr : s.sample.rst = false) (hd : s.resetDone = true) (hp : s.phase = .resp)
      (hv : s.sample.rspReady = true) : EdgeCase s s.tick.takeResponse
  | held (hr : s.sample.rst = false) (hd : s.resetDone = true) (hp : s.phase = .resp)
      (hv : s.sample.rspReady = false) : EdgeCase s s.tick

/-- The effect of an edge is one of the cases of `EdgeCase`, and there always is one. -/
theorem edgeEffect_cases (s : State) : ∃ t, edgeEffect s = .next t ∧ EdgeCase s t := by
  cases hr : s.sample.rst with
  | true => exact ⟨_, edgeEffect_reset hr, .reset hr⟩
  | false =>
    cases hd : s.resetDone with
    | false => exact ⟨_, edgeEffect_unspecified hr hd, .unspecified hr hd⟩
    | true =>
      rw [edgeEffect_transition hr hd]
      cases hp : s.phase with
      | idle =>
        refine ⟨_, transition_idle (by simpa using hp), ?_⟩
        cases hv : s.sample.cmdValid
        · simpa using EdgeCase.idle hr hd hp hv
        · simpa using EdgeCase.transfer hr hd hp hv
      | exec =>
        refine ⟨_, transition_exec (by simpa using hp), ?_⟩
        by_cases hc : s.cycles ≤ 1
        · simpa [hc] using EdgeCase.done hr hd hp hc
        · simpa [hc] using EdgeCase.counting hr hd hp (by omega)
      | resp =>
        refine ⟨_, transition_resp (by simpa using hp), ?_⟩
        cases hv : s.sample.rspReady
        · simpa using EdgeCase.held hr hd hp hv
        · simpa using EdgeCase.taken hr hd hp hv

/-- Everything a step can do: the host met its duties, and one of the cases of `EdgeCase` holds. -/
theorem step_cases {s t : State} (h : step s = .next t) : s.HostObeys ∧ EdgeCase s t := by
  have ho := hostObeys_of_step h
  obtain ⟨u, hu, hc⟩ := edgeEffect_cases s
  rw [step_of_hostObeys ho, hu] at h
  cases h
  exact ⟨ho, hc⟩

/-- A run goes on from the state its first step answers. -/
theorem run_succ_of_step {s t : State} (k : Nat) (h : step s = .next t) :
    Sys2Proof.core.run (k + 1) s = Sys2Proof.core.run k t := by
  have h' : Sys2Proof.core.step s = .next t := h
  have e := Host.Core.run.eq_2 Sys2Proof.core s k
  rw [h'] at e
  exact e

/-- A run that answers a next state after one edge or more began with a step that did. -/
theorem step_of_run_succ {s u : State} {k : Nat} (h : Sys2Proof.core.run (k + 1) s = .next u) :
    ∃ t, step s = .next t ∧ Sys2Proof.core.run k t = .next u := by
  have e := Host.Core.run.eq_2 Sys2Proof.core s k
  rw [h] at e
  split at e
  · rename_i t ht
    exact ⟨t, ht, e.symm⟩
  · cases e
  · cases e

/-- At the last EXEC cycle of a word that decodes, the step is the execution of its instruction. -/
theorem step_exec_decoded {s : State} {i : Instr} (h : s.Running) (hp : s.phase = .exec) (hc : s.cycles ≤ 1)
    (hd : decodeWord s.pend = .ok i) : step s = exec i s.tick := by
  obtain ⟨ho, hr, hs⟩ := h
  rw [step_of_hostObeys ho, edgeEffect_transition hs hr, transition_exec (by simpa using hp), exec_eq]
  simp [hc, wordResponse, hd]

/-- The step from `withFetchWord` runs the word's instruction, whatever the state before (log 11). -/
theorem step_withFetchWord {s : State} {n w : Nat} {i : Instr} (hd : decodeWord (tableWord n w) = .ok i) :
    step (s.withFetchWord n w) = exec i (s.withFetchWord n w).tick := by
  have hs : (s.withFetchWord n w).sample = s.restSample := rfl
  have ho : (s.withFetchWord n w).offered = s.offered := rfl
  refine step_exec_decoded ⟨⟨fun h => ?_, fun x hx => ?_, fun h => ?_⟩, rfl, ?_⟩ rfl (Nat.le_refl 1) hd
  · cases h
  · rw [ho] at hx
    simp [hs, State.restSample, hx]
  · rw [hs] at h
    cases h
  · rw [hs]
    rfl

end Sys2Proof.Machine
end

