-- ==== Sys2Proof/Tests/Slice0.lean ====
section
/-! SUPPORT. The model's own tests. Expected results are the spec's: the examples of the command rules and the vectors of
95_test_vectors.md, named at each group. The witnesses at the end meet the hypotheses of the statements for the provers. -/

namespace Sys2Proof.Tests

open Sys2Proof Sys2Proof.Machine

/-- The response that one step from `withFetchWord` leaves, for a command word right after reset. -/
def responseTo (w : Nat) : Option (Nat × Nat) :=
  match step (State.reset.withFetchWord 32 w) with
  | .next t    => some (t.rspStatus.toNat, t.rspData.toNat)
  | .fault _   => none
  | .refused _ => none

/-! ### Well-formedness: a term that each check refuses (R63) -/

theorem test_asm_accepts_enc : AsmLine.wellFormed ⟨"ENC", none, [127]⟩ = true := by decide
theorem test_asm_refuses_wide_a : AsmLine.wellFormed ⟨"ENC", none, [128]⟩ = false := by decide
theorem test_asm_refuses_wide_b : AsmLine.wellFormed ⟨"BXOR", some "7", [1, 128]⟩ = false := by decide
theorem test_asm_refuses_wide_index : AsmLine.wellFormed ⟨"GROW", none, [8]⟩ = false := by decide
theorem test_asm_refuses_wide_bit_index : AsmLine.wellFormed ⟨"GETB", some "7", [1, 8]⟩ = false := by decide
theorem test_asm_refuses_wide_bit_value : AsmLine.wellFormed ⟨"SETB", some "7", [1, 1, 2]⟩ = false := by decide
theorem test_asm_refuses_missing_suffix : AsmLine.wellFormed ⟨"POPC", none, [1]⟩ = false := by decide
theorem test_asm_refuses_other_suffix : AsmLine.wellFormed ⟨"POPC", some "5", [1]⟩ = false := by decide
theorem test_asm_refuses_suffix_on_enc : AsmLine.wellFormed ⟨"ENC", some "4", [1]⟩ = false := by decide
theorem test_asm_refuses_operand_count : AsmLine.wellFormed ⟨"MDIST", none, [1]⟩ = false := by decide
theorem test_asm_refuses_unknown_mnemonic : AsmLine.wellFormed ⟨"NOP", none, []⟩ = false := by decide
theorem test_field_checks_refuse : (fitsSymField 128, fitsIdxField 8, fitsBitField 2) = (false, false, false) := by decide

/-! ### Assembler lines (95_test_vectors.md sections 2.1 to 2.4) -/

theorem test_text_clrb : (assembleText "CLRB.7 0x2D, 0".toList).toOption = some 0x004002D9#32 := by decide
theorem test_text_getb_unchecked : (assembleText "GETB.4 0x13, 6".toList).toOption = some 0x00180138#32 := by decide
theorem test_text_binary : (assembleText "ENC 0b1010".toList).toOption = some 0x000000A1#32 := by decide
theorem test_text_refused : (assembleText "ENC 128".toList).toOption = none := by decide

/-! ### Decoding: each command's example word, bit by bit from the patterns of R59 -/

theorem test_decode_enc : decodeTableWord 32 0b00000000000000000000000010100001 = some (.enc 0x0A#7) := by decide
theorem test_decode_dec : decodeTableWord 32 0b00000000000000000000001001010010 = some (.dec 0x25#7) := by decide
theorem test_decode_mdist : decodeTableWord 32 0b00000000000000000000000000000011 = some (.mdist) := by decide
theorem test_decode_grow : decodeTableWord 32 0b00000000000011000000000000000100 = some (.grow 3#3) := by decide
theorem test_decode_synd : decodeTableWord 32 0b00000000000000000000001001010101 = some (.synd 0x25#7) := by decide
theorem test_decode_bxor : decodeTableWord 32 0b00000000010000101001001011010110 = some (.bxor .w7 0x2D#7 0x52#7) := by decide
theorem test_decode_popc : decodeTableWord 32 0b00000000010000000000011111110111 = some (.popc .w7 0x7F#7) := by decide
theorem test_decode_getb : decodeTableWord 32 0b00000000000110000000000100111000 = some (.getb .w4 0x13#7 6#3) := by decide
theorem test_decode_setb : decodeTableWord 32 0b00000000011001000000001011011001 = some (.setb .w7 0x2D#7 1#3 true) := by decide
theorem test_decode_flipb : decodeTableWord 32 0b00000000010011000000001011011010 = some (.flipb .w7 0x2D#7 3#3) := by decide
theorem test_decode_hdist : decodeTableWord 32 0b00000000000000000010100010101011 = some (.hdist .w4 0x0A#7 0x05#7) := by decide
theorem test_decode_idle_bus : decodeTableWord 32 0 = none := by decide
theorem test_decode_reserved_bit : (decodeWord 0x80000003#32).toOption = none := by decide
theorem test_rejection_names :
    (rejection 0x0000000C#32, rejection 0x00800001#32, rejection 0x00000013#32)
      = (.unassignedOp, .reservedBits, .mustBeZero) := by decide

/-! ### Commands (95_test_vectors.md sections 2.1 to 2.8): status and data -/

theorem test_enc_a : responseTo 0x000000A1 = some (0, 0x2D) := by decide
theorem test_enc_width : responseTo 0x00000101 = some (2, 0x00) := by decide
theorem test_dec_corrects_bit3 : responseTo 0x00000252 = some (0, 0x0A) := by decide
theorem test_dec_double_error : responseTo 0x00000302 = some (0, 0x0E) := by decide
theorem test_mdist : responseTo 0x00000003 = some (0, 0x03) := by decide +kernel
theorem test_grow_row3 : responseTo 0x000C0004 = some (0, 0x4B) := by decide
theorem test_grow_4 : responseTo 0x00100004 = some (3, 0x00) := by decide
theorem test_synd_bit3 : responseTo 0x00000255 = some (0, 0x04) := by decide
theorem test_synd_bit6 : responseTo 0x000006D5 = some (0, 0x07) := by decide
theorem test_bxor_7 : responseTo 0x004029A6 = some (0, 0x1F) := by decide
theorem test_bxor_4_width_b : responseTo 0x0000A8A6 = some (2, 0x00) := by decide
theorem test_popc_7 : responseTo 0x004007F7 = some (0, 0x07) := by decide
theorem test_popc_4_width : responseTo 0x00000107 = some (2, 0x00) := by decide
theorem test_getb_4_top : responseTo 0x000C00A8 = some (0, 0x01) := by decide
theorem test_getb_width_before_index : responseTo 0x00180138 = some (2, 0x00) := by decide
theorem test_setb_7_set : responseTo 0x006402D9 = some (0, 0x2F) := by decide
theorem test_setb_7_clear : responseTo 0x004002D9 = some (0, 0x2C) := by decide
theorem test_flipb_7 : responseTo 0x004C02DA = some (0, 0x25) := by decide
theorem test_flipb_7_index : responseTo 0x005C000A = some (3, 0x00) := by decide
theorem test_hdist_7 : responseTo 0x004292DB = some (0, 0x07) := by decide
theorem test_hdist_4_width_b : responseTo 0x0000800B = some (2, 0x00) := by decide
theorem test_illegal_before_width : responseTo 0x008001F1 = some (1, 0x00) := by decide
theorem test_illegal_before_index : responseTo 0x00900004 = some (1, 0x00) := by decide

/-! ### The ports (95_test_vectors.md section 3.8) -/

/-- A state after reset in a given PHASE, with one port sample to come. -/
def portState (ph : Phase) (cycles : Nat) (p : PortSample) : State :=
  { State.reset with phase := ph, cycles := cycles, pend := 0x000000A1#32, accepted := [0x000000A1#32], inputs := [p] }

/-- What a step leaves of a state, read by `f`. -/
def afterStep {α : Type} (f : State → α) (s : State) : Option α :=
  match step s with
  | .next t    => some (f t)
  | .fault _   => none
  | .refused _ => none

theorem test_command_transfers :
    afterStep (fun t => (t.phase, t.pend)) { State.reset with inputs := [offerSample 0x000000A1#32] }
      = some (.exec, 0x000000A1#32) := by decide
theorem test_exec_counts : afterStep (fun t => (t.phase, t.cycles)) (portState .exec 2 quietSample) = some (.exec, 1) := by
  decide
theorem test_exec_ends :
    afterStep (fun t => (t.phase, t.rspStatus, t.rspData)) (portState .exec 1 quietSample)
      = some (.resp, 0#2, 0x2D#7) := by decide
theorem test_response_held : afterStep (fun t => t.phase) (portState .resp 0 quietSample) = some .resp := by decide
theorem test_response_taken : afterStep (fun t => t.phase) (portState .resp 0 takeSample) = some .idle := by decide
theorem test_reset_aborts :
    afterStep (fun t => (t.phase, t.responses)) (portState .exec 2 resetSample) = some (.idle, []) := by decide
theorem test_error_does_not_stick :
    afterStep (fun t => (t.phase, t.faultRecord)) { portState .resp 0 takeSample with rspStatus := 3#2 }
      = some (.idle, [3#2]) := by decide
theorem test_nibbles_of_a5 : symbolsOf [0xA5#8] = [0xA#4, 0x5#4] := by decide

/-- 95_test_vectors.md section 3.1 (P1): bit 3 of ENC 0xA and bit 6 of ENC 0x5 flipped, the tally is 0 + 0. -/
theorem test_tally_p1 : residualTally [(0xA#4, decodeSym 0x25#7), (0x5#4, decodeSym 0x12#7)] = 0 := by decide

/-- 95_test_vectors.md section 3.4 (P4): 0x30 decodes to 0xE where 0x6 was sent, the tally is 1. -/
theorem test_tally_p4 : residualTally [(0x6#4, decodeSym 0x30#7)] = 1 := by decide

/-- 95_test_vectors.md section 3.1: the words of HDIST.4 0xA, 0xA and HDIST.4 0x5, 0x5. -/
theorem test_tally_words :
    tallyStream [(0xA#4, 0xA#4), (0x5#4, 0x5#4)] = [0x000050AB#32, 0x0000285B#32] := by decide

/-! ### Witnesses: states and operands that meet the hypotheses of the statements -/

/-- A sample in which the host looks at the response outputs. -/
def readSample : PortSample := ⟨false, false, 0#32, false, true⟩

/-- A sample in which the host looks at the response outputs during reset. -/
def readInReset : PortSample := ⟨true, false, 0#32, false, true⟩

/-- The state at power-on with one sample to come: some state in which no reset edge has happened (R126). -/
def powerOn (p : PortSample) : State := { State.reset with resetDone := false, inputs := [p] }

/-- A host that offers nothing and looks at nothing meets its duties. -/
theorem quiet_obeys {s : State} (ho : s.offered = none) (hv : s.sample.cmdValid = false)
    (hr : s.sample.rspRead = false) : s.HostObeys :=
  ⟨fun _ => hv, fun w h => absurd (ho.symm.trans h) (by simp), fun h => absurd (hr.symm.trans h) (by simp)⟩

theorem portState_running (ph : Phase) (n : Nat) {p : PortSample} (hr : p.rst = false) (hl : p.rspRead = false) :
    (portState ph n p).Running :=
  ⟨⟨fun h => (by cases h), fun w h => (by cases h), fun h => absurd (hl.symm.trans h) (by simp)⟩, rfl, hr⟩

theorem witness_EncodeOfDecode : decodeWord 0x000000A1#32 = .ok (.enc 0x0A#7) := rfl

theorem witness_UniqueRowSelects :
    ∃ r ∈ opTable, (0x00000003#32 : Word) &&& r.mask = r.value ∧ opField r.value = opField r.value :=
  ⟨⟨.mdist, 0x00000003#32, 0xFFFFFFFF#32⟩, by decide, by decide, rfl⟩

theorem witness_IllegalWords :
    (∃ e, decodeWord 0x0000000C#32 = .error e) ∧ ¬ ∃ e, decodeWord 0x00000003#32 = .error e :=
  ⟨⟨_, rfl⟩, fun ⟨e, h⟩ => by
    have : decodeWord 0x00000003#32 = .ok .mdist := rfl
    rw [this] at h; cases h⟩

theorem witness_ExecOfEveryWord :
    (∀ r ∈ opTable, (0#32 : Word) &&& r.mask ≠ r.value) ∧ ∃ r ∈ opTable, (0x00000003#32 : Word) &&& r.mask = r.value :=
  ⟨by decide, ⟨⟨.mdist, 0x00000003#32, 0xFFFFFFFF#32⟩, by decide, by decide⟩⟩

/-- R63: 127 is the largest `a`; 128 is refused, so both clauses of the statement are met. -/
theorem witness_AssemblerTakesWellFormedLines :
    assemble ⟨"ENC", none, [127]⟩ = .ok (.enc 0x7F#7) ∧ ∀ c, assemble ⟨"ENC", none, [128]⟩ ≠ .ok c := by
  have h : assemble ⟨"ENC", none, [128]⟩ = .error .illFormed := by decide
  exact ⟨by decide, fun c hc => nomatch h.symm.trans hc⟩

theorem witness_AssemblerForms : (127 ≤ 127 ∧ 127 ≤ 127 ∧ 7 ≤ 7 ∧ 1 ≤ 1) ∧ ("7", SymWidth.w7) ∈ [("4", SymWidth.w4), ("7", SymWidth.w7)] := by
  decide

theorem witness_StepRunsDecoded :
    (portState .exec 1 quietSample).Running ∧ (portState .exec 1 quietSample).phase = .exec ∧
    (portState .exec 1 quietSample).cycles ≤ 1 ∧ decodeWord (portState .exec 1 quietSample).pend = .ok (.enc 0x0A#7) :=
  ⟨portState_running _ _ rfl rfl, rfl, Nat.le_refl 1, rfl⟩

theorem witness_StepAnswersIllegal :
    ∃ s : State, s.Running ∧ s.phase = .exec ∧ s.cycles ≤ 1 ∧ decodeWord s.pend = .error .unassignedOp :=
  ⟨{ portState .exec 1 quietSample with pend := 0#32 }, ⟨quiet_obeys rfl rfl rfl, rfl, rfl⟩, rfl, Nat.le_refl 1, rfl⟩

theorem witness_PortTransitions_idle :
    (portState .idle 0 (offerSample 0x00000003#32)).Running ∧
    (portState .idle 0 (offerSample 0x00000003#32)).sample.cmdValid = true ∧
    (portState .idle 0 quietSample).Running ∧ (portState .idle 0 quietSample).sample.cmdValid = false :=
  ⟨portState_running _ _ rfl rfl, rfl, portState_running _ _ rfl rfl, rfl⟩

theorem witness_PortTransitions_exec :
    (portState .exec 2 quietSample).Running ∧ 1 < (portState .exec 2 quietSample).cycles ∧
    (portState .exec 1 quietSample).Running ∧ (portState .exec 1 quietSample).cycles ≤ 1 :=
  ⟨portState_running _ _ rfl rfl, Nat.lt_succ_self 1, portState_running _ _ rfl rfl, Nat.le_refl 1⟩

theorem witness_PortTransitions_resp :
    (portState .resp 0 takeSample).Running ∧ (portState .resp 0 takeSample).sample.rspReady = true ∧
    (portState .resp 0 quietSample).Running ∧ (portState .resp 0 quietSample).sample.rspReady = false :=
  ⟨portState_running _ _ rfl rfl, rfl, portState_running _ _ rfl rfl, rfl⟩

theorem witness_AnsweredAfterLatency :
    (portState .idle 0 (offerSample 0x000000A1#32)).Running ∧
    (portState .idle 0 (offerSample 0x000000A1#32)).phase = .idle ∧
    (portState .idle 0 (offerSample 0x000000A1#32)).sample.cmdValid = true ∧
    (∀ n, ∀ p ∈ (portState .idle 0 (offerSample 0x000000A1#32)).inputs.tail.take n, p.rst = false ∧ p.rspRead = false) ∧
    (∀ n, keepsOffers none ((portState .idle 0 (offerSample 0x000000A1#32)).inputs.tail.take n) = true) ∧
    (1 ≤ 1 ∧ 1 ≤ Config.latency (opField 0x000000A1#32)) :=
  ⟨portState_running _ _ rfl rfl, rfl, rfl, fun n p h => by simp [portState] at h, fun n => by simp [portState, keepsOffers],
    Nat.le_refl 1, Nat.succ_pos _⟩

theorem witness_TransfersNeedValidAndReady :
    (∃ s t : State, s.Running ∧ step s = .next t) ∧ (∃ s t : State, s.sample.rst = true ∧ step s = .next t) ∧
    (portState .resp 0 quietSample).inputs = quietSample :: [] :=
  ⟨⟨portState .resp 0 takeSample, _, portState_running _ _ rfl rfl, rfl⟩, ⟨portState .exec 2 resetSample, _, rfl, rfl⟩, rfl⟩

theorem witness_PhaseDrivesOutputs (ph : Phase) :
    (portState ph 1 quietSample).resetDone = true ∧ (portState ph 1 quietSample).sample.rst = false ∧
    (portState ph 1 quietSample).phase = ph := ⟨rfl, rfl, rfl⟩

theorem witness_ResetEdgeLoadsResetValues :
    (portState .resp 0 resetSample).HostObeys ∧ (portState .resp 0 resetSample).sample.rst = true ∧
    (powerOn resetSample).HostObeys ∧ (powerOn resetSample).sample.rst = true :=
  ⟨quiet_obeys rfl rfl rfl, rfl, quiet_obeys rfl rfl rfl, rfl⟩

theorem witness_OutputsDuringReset :
    ∃ s t : State, s.sample.rst = true ∧ step s = .next t ∧ t.sample.rst = false ∧ t.Running ∧ t.sample.cmdValid = true :=
  ⟨{ portState .exec 2 resetSample with inputs := [resetSample, offerSample 0x00000003#32] }, _, rfl, rfl, rfl,
    ⟨⟨fun h => (by cases h), fun w h => (by cases h), fun h => (by cases h)⟩, rfl, rfl⟩, rfl⟩

theorem witness_ResetAbortsCommand :
    ∃ s t : State, s.phase ≠ .idle ∧ s.sample.rst = true ∧ step s = .next t ∧
      ∃ u : State, Sys2Proof.core.run 1 t = .next u ∧ u.accepted = [] :=
  ⟨portState .exec 2 resetSample, _, by decide, rfl, rfl, _, rfl, rfl⟩

theorem witness_ReadWithoutResponseFaults_phase :
    (portState .exec 2 readSample).sample.rspRead = true ∧ (portState .exec 2 readSample).phase ≠ .resp ∧
    ((portState .exec 2 readSample).resetDone = false → (portState .exec 2 readSample).sample.cmdValid = false) ∧
    (∀ w, (portState .exec 2 readSample).offered = some w → (portState .exec 2 readSample).sample.cmdValid = true ∧
      (portState .exec 2 readSample).sample.cmdWord = w) :=
  ⟨rfl, by decide, fun _ => rfl, fun w h => by cases h⟩

theorem witness_ReadWithoutResponseFaults_reset :
    (portState .resp 0 readInReset).sample.rspRead = true ∧ (portState .resp 0 readInReset).sample.rst = true ∧
    (portState .resp 0 readInReset).offered = none ∧
    (powerOn readSample).sample.rspRead = true ∧ (powerOn readSample).resetDone = false ∧
    (powerOn readSample).sample.cmdValid = false ∧ (powerOn readSample).offered = none :=
  ⟨rfl, rfl, rfl, rfl, rfl, rfl, rfl⟩

theorem witness_BrokenOfferRefused :
    (∃ s : State, s.resetDone = true ∧ s.offered = some 0x00000003#32 ∧ s.sample.cmdValid = false) ∧
    (∃ s : State, s.resetDone = true ∧ s.offered = some 0x00000003#32 ∧ s.sample.cmdValid = true ∧
      s.sample.cmdWord ≠ 0x00000003#32) :=
  ⟨⟨{ portState .exec 2 quietSample with offered := some 0x00000003#32 }, rfl, rfl, rfl⟩,
   ⟨{ portState .exec 2 (offerSample 0x00000013#32) with offered := some 0x00000003#32 }, rfl, rfl, rfl, by decide⟩⟩

theorem witness_CommandBeforeResetRefused :
    (powerOn (offerSample 0x00000003#32)).resetDone = false ∧
    (powerOn (offerSample 0x00000003#32)).sample.cmdValid = true := ⟨rfl, rfl⟩

theorem witness_StepStopsOnlyForHost : State.reset.HostObeys ∧ ¬ (portState .exec 2 readSample).HostObeys :=
  ⟨quiet_obeys rfl rfl rfl, fun h => absurd (h.2.2 rfl) (by decide)⟩

/-- A state in RESP that the run invariant holds in: ENC 0xA accepted and answered, its response not yet taken. -/
def respState : State := { portState .resp 0 takeSample with rspStatus := 0#2, rspData := 0x2D#7 }

theorem witness_EveryStepKeepsRunIsMapExec : respState.RunInv ∧ ∃ t, step respState = .next t :=
  ⟨fun _ => ⟨rfl, fun _ => rfl, fun _ => by decide⟩, ⟨_, rfl⟩⟩

theorem witness_EveryStepKeepsInv : respState.Inv ∧ ∃ t, step respState = .next t :=
  ⟨⟨rfl, fun _ h => (by cases h), fun _ h => absurd rfl h, witness_EveryStepKeepsRunIsMapExec.1,
    fun c h => (by cases h)⟩, ⟨_, rfl⟩⟩

theorem witness_RunOfCommandsIsMapExec :
    ∃ s : State, s.resetDone = true ∧ s.phase = .idle ∧ s.offered = none ∧
      s.inputs = runSamples [0x000000A1#32, 0x00000000#32] ++ [quietSample] :=
  ⟨{ State.reset with inputs := runSamples [0x000000A1#32, 0x00000000#32] ++ [quietSample] }, rfl, rfl, rfl, rfl⟩

theorem witness_FaultRecordOnlyGrows :
    ∃ s t : State, step s = .next t ∧ s.phase = .resp ∧ s.sample.rspReady = true ∧ s.rspStatus ≠ 0#2 :=
  ⟨{ portState .resp 0 takeSample with rspStatus := 3#2 }, _, rfl, rfl, rfl, by decide⟩

theorem witness_ResponseDependsOnWordAndGrom :
    (portState .exec 1 quietSample).grom = State.reset.grom ∧ portState .exec 1 quietSample ≠ State.reset :=
  ⟨rfl, by decide⟩

theorem witness_GromNeverWritten :
    (∃ t, exec .mdist State.reset = .next t) ∧ ∃ t, step (portState .exec 2 resetSample) = .next t :=
  ⟨⟨_, rfl⟩, ⟨_, rfl⟩⟩

theorem witness_ErrorsCarryNoData :
    (∃ t, exec (.grow 4#3) State.reset = .next t ∧ t.rspStatus ≠ 0#2) ∧
    ∃ t, execWord 0#32 State.reset = .next t ∧ t.rspStatus ≠ 0#2 :=
  ⟨⟨_, rfl, by decide⟩, ⟨_, rfl, by decide⟩⟩

theorem witness_ErrorCausesAndPriority :
    widthBad (.getb .w4 0x13#7 6#3) ∧ indexBad (.getb .w4 0x13#7 6#3) ∧
    ¬ widthBad (.getb .w7 0x2D#7 7#3) ∧ indexBad (.getb .w7 0x2D#7 7#3) ∧
    ¬ widthBad (.getb .w7 0x2D#7 6#3) ∧ ¬ indexBad (.getb .w7 0x2D#7 6#3) ∧
    decodeWord 0x008001F1#32 = .error .reservedBits := by
  refine ⟨?_, ?_, ?_, ?_, ?_, ?_, rfl⟩ <;> simp [widthBad, indexBad, widthNat]

/-- The boundary operands of BxorAnswers, PopcAnswers, GetbAnswers, SetbAnswers, FlipbAnswers and HdistAnswers. -/
theorem witness_symbols_and_indices :
    IsSymbol .w4 15#7 ∧ ¬ IsSymbol .w4 16#7 ∧ IsSymbol .w7 127#7 ∧
    (3#3).toNat < widthNat .w4 ∧ ¬ (4#3).toNat < widthNat .w4 ∧
    (6#3).toNat < widthNat .w7 ∧ ¬ (7#3).toNat < widthNat .w7 := by decide

theorem witness_BitVectorLaws :
    IsSymbol .w4 15#7 ∧ IsSymbol .w4 9#7 ∧ IsSymbol .w4 0#7 ∧ 3 < widthNat .w4 ∧ 6 < widthNat .w7 := by decide

theorem witness_BitVectorResultsAreSymbols : IsSymbol .w4 15#7 ∧ IsSymbol .w4 9#7 ∧ 3 < widthNat .w4 := by decide

theorem witness_GrowAnswers : 4 ≤ (4#3).toNat ∧ 4 ≤ (7#3).toNat := by decide

theorem witness_GrowIsEncOfOneHot : (0#3).toNat < 4 ∧ (3#3).toNat < 4 := by decide

theorem witness_EncAnswers : (15#7).toNat < 16 ∧ 16 ≤ (16#7).toNat ∧ 16 ≤ (127#7).toNat := by decide

/-- The premise of EncIsSystematic, EncodeTable, SyndromeProperties, CorrectGivesCodeword and MdistIsThree. -/
theorem witness_gromFixed : State.reset.GromFixed := rfl

theorem witness_SyndromeProperties : 6 < 7 ∧ 0 < 7 ∧ (6 : Nat) ≠ 0 := by decide

theorem witness_CorrectGivesCodeword : syndrome 0x2D#7 = 0#3 ∧ syndrome 0x25#7 ≠ 0#3 := by decide

theorem witness_DecAnswers :
    2 ≤ onesCount 0x03#7 ∧ onesCount (encodeMsg Grom.rom 0xA#4 ^^^ 0x25#7) ≤ 1 := by decide

theorem witness_RoundTripAndSingleError : State.reset.GromFixed ∧ (6#3).toNat < 7 := ⟨rfl, by decide⟩

theorem witness_MdistAnswers : (0#4 : Msg) ≠ 1#4 := by decide

end Sys2Proof.Tests
end

section
/-! PROOFS, the family of 10_state.md. What one step does in each PHASE, what the handshake outputs are, what every edge
keeps of the invariant, and the values of GROM; then the theorems that settle the family's statements. -/

namespace Sys2Proof.Machine

/-! ### The host's duties at an edge -/

/-- R129 (a) as the model checks it: an offer that stands is driven again, word and all. -/
theorem State.offerHeld_iff (s : State) (p : PortSample) :
    s.offerHeld p = true ↔ ∀ w, s.offered = some w → p.cmdValid = true ∧ p.cmdWord = w := by
  unfold State.offerHeld
  cases s.offered <;> simp

/-- The outputs hold no response outside RESP, during reset and before the first reset (R32, R124, R126). -/
theorem State.holdsResponse_eq_false_iff (s : State) :
    s.holdsResponse = false ↔ s.phase ≠ .resp ∨ s.sample.rst = true ∨ s.resetDone = false := by
  unfold State.holdsResponse
  cases s.resetDone <;> cases s.sample.rst <;> simp

/-- A look at outputs that hold no response stops the step, if the host meets its other duties (R32, U5). -/
theorem step_fault_of_read {s : State} (hd : s.resetDone = false → s.sample.cmdValid = false)
    (ho : s.offerHeld s.sample = true) (hr : s.sample.rspRead = true) (hn : s.holdsResponse = false) :
    step s = .fault .rspReadWhileInvalid := by
  have hc : (!s.resetDone && s.sample.cmdValid) = false := by
    cases h : s.resetDone
    · simp [hd h]
    · rfl
  simp [step, clockEdge, hc, ho, hr, hn]

/-! ### The step in each PHASE (R31) -/

section Running

variable {s : State} (h : s.Running)
include h

/-- With the duties met, after the first reset and with rst = 0, a step is the transition of R31. -/
theorem step_of_running : step s = transition s.sample s.tick := by
  obtain ⟨hobeys, hdone, hrst⟩ := h
  rw [step_of_hostObeys hobeys, edgeEffect_transition hrst hdone]

theorem step_of_idle (hp : s.phase = .idle) :
    step s = .next (if s.sample.cmdValid then s.tick.accept s.sample.cmdWord else s.tick) :=
  (step_of_running h).trans (transition_idle (s := s.tick) hp)

theorem step_of_exec (hp : s.phase = .exec) :
    step s = .next (if s.cycles ≤ 1 then s.tick.answer (wordResponse s.grom s.pend) else s.tick.countDown) :=
  (step_of_running h).trans (transition_exec (s := s.tick) hp)

theorem step_of_resp (hp : s.phase = .resp) :
    step s = .next (if s.sample.rspReady then s.tick.takeResponse else s.tick) :=
  (step_of_running h).trans (transition_resp (s := s.tick) hp)

end Running

/-! ### The output ports (R24, R30) -/

@[simp] theorem State.outputs_cmdReady (s : State) : s.outputs.cmdReady = s.cmdReady := rfl
@[simp] theorem State.outputs_rspValid (s : State) : s.outputs.rspValid = s.rspValid := rfl

section Outputs

variable {s : State} (hdone : s.resetDone = true) (hrst : s.sample.rst = false)
include hdone hrst

/-- R30: `cmd_ready` is 1 exactly in IDLE. -/
theorem State.cmdReady_eq_idle : s.cmdReady = (s.phase == .idle) := by simp [State.cmdReady, hdone, hrst]

/-- R30: `rsp_valid` is 1 exactly in RESP. -/
theorem State.rspValid_eq_resp : s.rspValid = (s.phase == .resp) := by simp [State.rspValid, hdone, hrst]

theorem State.holdsResponse_eq_resp : s.holdsResponse = (s.phase == .resp) := by
  simp [State.holdsResponse, hdone, hrst]

/-- R31: in RESP the output ports carry the response registers. -/
theorem State.outputs_of_resp (hp : s.phase = .resp) :
    s.outputs.rspStatus = s.rspStatus ∧ s.outputs.rspData = s.rspData := by
  simp [State.outputs, State.holdsResponse_eq_resp hdone hrst, hp]

end Outputs

/-- Of the port sample, the outputs depend on rst alone. -/
theorem State.outputs_with_inputs (s : State) (l : List PortSample)
    (h : ({ s with inputs := l } : State).sample.rst = s.sample.rst) :
    ({ s with inputs := l } : State).outputs = s.outputs := by
  cases hrst : s.sample.rst <;>
    simp [State.outputs, State.cmdReady, State.rspValid, State.holdsResponse, h.trans hrst, hrst]

/-! ### What every edge keeps of the run (R33, R34) -/

theorem State.answered_of_idle {s : State} (h : s.phase = .idle) : s.answered = s.accepted := by
  simp [State.answered, h]

theorem State.answered_of_busy {s : State} (h : s.phase ≠ .idle) : s.answered = s.accepted.dropLast := by
  simp [State.answered, h]

/-- A run begins with no command and no response (R131). -/
theorem State.runMatches_loadReset (s : State) : s.loadReset.RunMatches where
  responses_eq := rfl
  in_flight := fun h => absurd rfl h
  held := fun h => nomatch h

section RunMatches

variable {s : State} (h : s.RunMatches)
include h

theorem State.RunMatches.tick : s.tick.RunMatches where
  responses_eq := h.responses_eq
  in_flight := h.in_flight
  held := h.held

/-- A command that transfers is the one in flight; those before it stay answered. -/
theorem State.RunMatches.accept (hp : s.phase = .idle) (w : Word) : (s.accept w).RunMatches where
  responses_eq := by
    have hans : (s.accept w).answered = s.answered := by
      rw [State.answered_of_busy (by simp), State.answered_of_idle hp]
      simp
    rw [hans]
    exact h.responses_eq
  in_flight := fun _ => by simp
  held := fun hr => nomatch hr

theorem State.RunMatches.countDown : s.countDown.RunMatches where
  responses_eq := h.responses_eq
  in_flight := h.in_flight
  held := h.held

/-- The command in flight gets its response of R62, and stays in flight until that transfers. -/
theorem State.RunMatches.answer (hp : s.phase = .exec) : (s.answer (wordResponse s.grom s.pend)).RunMatches where
  responses_eq := by
    have hans : (s.answer (wordResponse s.grom s.pend)).answered = s.answered := by
      rw [State.answered_of_busy (by simp), State.answered_of_busy (by simp [hp])]
      simp
    rw [hans]
    exact h.responses_eq
  in_flight := fun _ => h.in_flight (by simp [hp])
  held := fun _ => rfl

/-- The response that transfers is the one of the command in flight, which is the last accepted. -/
theorem State.RunMatches.takeResponse (hp : s.phase = .resp) : s.takeResponse.RunMatches where
  responses_eq := by
    have hbusy : s.phase ≠ .idle := by simp [hp]
    have hlast : s.accepted = s.accepted.dropLast ++ [s.pend] :=
      (List.dropLast_append_getLast? _ (h.in_flight hbusy)).symm
    have hresp : s.responses = s.accepted.dropLast.map (wordResponse s.grom) := by
      rw [← State.answered_of_busy hbusy]
      exact h.responses_eq
    rw [State.answered_of_idle (by simp), State.takeResponse_accepted, hlast]
    simp [hresp, h.held hp]
  in_flight := fun hi => absurd rfl hi
  held := fun hr => nomatch hr

end RunMatches

/-- Every edge keeps the run invariant (R34). -/
theorem EdgeCase.keeps_runInv {s t : State} (hc : EdgeCase s t) (hi : s.RunInv) : t.RunInv := by
  intro hdone
  cases hc with
  | reset => exact s.tick.runMatches_loadReset
  | unspecified _ hd => exact absurd (hdone.symm.trans hd) (by simp)
  | transfer _ hd hp => exact (hi hd).tick.accept hp _
  | idle _ hd => exact (hi hd).tick
  | counting _ hd => exact (hi hd).tick.countDown
  | done _ hd hp => exact (hi hd).tick.answer hp
  | taken _ hd hp => exact (hi hd).tick.takeResponse hp
  | held _ hd => exact (hi hd).tick

/-! ### What every edge keeps of the rest of the invariant -/

section EdgeCase

variable {s t : State} (hc : EdgeCase s t)
include hc

/-- No edge writes GROM (R26, R123). -/
theorem EdgeCase.grom_eq : t.grom = s.grom := by
  cases hc <;> rfl

/-- The counter is loaded with LATENCY, which is positive, and counts down no further than 1 (R31, R130). -/
theorem EdgeCase.keeps_countsDown (hi : s.CountsDown) : t.CountsDown := by
  intro hdone hexec
  cases hc with
  | reset => exact nomatch hexec
  | unspecified _ hd => exact absurd (hdone.symm.trans hd) (by simp)
  | transfer => simp [Config.latency]
  | idle _ hd => exact hi hd hexec
  | counting _ hd hp hgo =>
    have hbounds := hi hd hp
    simp only [State.countDown_cycles, State.countDown_pend, State.tick_cycles, State.tick_pend]
    omega
  | done => exact nomatch hexec
  | taken => exact nomatch hexec
  | held _ hd => exact hi hd hexec

/-- The response registers are written at a reset, with zeros, and with a response of R62, whose error data is 0 (R105). -/
theorem EdgeCase.keeps_errorDataZero (hi : s.ErrorDataZero) : t.ErrorDataZero := by
  intro hdone herr
  cases hc with
  | reset => rfl
  | unspecified _ hd => exact absurd (hdone.symm.trans hd) (by simp)
  | transfer _ hd => exact hi hd herr
  | idle _ hd => exact hi hd herr
  | counting _ hd => exact hi hd herr
  | done => exact wordResponse_data_zero _ _ herr
  | taken _ hd => exact hi hd herr
  | held _ hd => exact hi hd herr

/-- The fault record changes only where a response that is not OK transfers, by its status (R116). -/
theorem EdgeCase.keeps_recordsErrors (hi : s.RecordsErrors) : t.RecordsErrors := by
  cases hc with
  | taken =>
    intro c hmem
    by_cases hok : s.rspStatus = statusOk
    · exact hi c (by simpa [hok] using hmem)
    · have hcases : c ∈ s.faultRecord ∨ c = s.rspStatus := by simpa [hok] using hmem
      obtain hold | rfl := hcases
      · exact hi c hold
      · exact hok
  | _ => exact hi

theorem EdgeCase.keeps_inv (hi : s.Inv) : t.Inv where
  grom_fixed := hc.grom_eq.trans hi.grom_fixed
  counts_down := hc.keeps_countsDown hi.counts_down
  error_data := hc.keeps_errorDataZero hi.error_data
  run_matches := hc.keeps_runInv hi.run_matches
  records_errors := hc.keeps_recordsErrors hi.records_errors

end EdgeCase

/-- After the first reset and with rst = 0, an edge records the transfers of R25 and no others. -/
theorem EdgeCase.transfers {s t : State} (hc : EdgeCase s t) (hdone : s.resetDone = true)
    (hrst : s.sample.rst = false) :
    t.accepted = (if s.sample.cmdValid && s.outputs.cmdReady then s.accepted ++ [s.sample.cmdWord] else s.accepted) ∧
    t.responses = (if s.outputs.rspValid && s.sample.rspReady
      then s.responses ++ [⟨s.outputs.rspStatus, s.outputs.rspData⟩] else s.responses) := by
  rw [State.outputs_cmdReady, State.outputs_rspValid, State.cmdReady_eq_idle hdone hrst,
    State.rspValid_eq_resp hdone hrst]
  cases hc with
  | reset hr => exact absurd (hr.symm.trans hrst) (by simp)
  | unspecified _ hd => exact absurd (hdone.symm.trans hd) (by simp)
  | transfer _ _ hp hv => simp [hp, hv]
  | idle _ _ hp hv => simp [hp, hv]
  | counting _ _ hp => simp [hp]
  | done _ _ hp => simp [hp]
  | taken _ _ hp hv =>
    obtain ⟨hstatus, hdata⟩ := State.outputs_of_resp hdone hrst hp
    simp [hp, hv, hstatus, hdata]
  | held _ _ hp hv => simp [hp, hv]

/-- An edge with rst = 1 begins a new run (R123, R131). -/
theorem EdgeCase.eq_loadReset {s t : State} (hc : EdgeCase s t) (hrst : s.sample.rst = true) :
    t = s.tick.loadReset := by
  cases hc with
  | reset => rfl
  | _ hr => exact absurd (hr.symm.trans hrst) (by simp)

/-! ### Codewords and the values of GROM (R27, R28, R29) -/

/-- With GROM's values, the message of a codeword is read back at its systematic positions (R28, R88). -/
theorem extractMsg_encodeMsg_rom (m : Msg) : extractMsg (encodeMsg Grom.rom m) = m := by
  revert m; decide

/-- Every codeword has syndrome 0 (R29). -/
theorem syndrome_encodeMsg_rom (m : Msg) : syndrome (encodeMsg Grom.rom m) = 0#3 := by
  revert m; decide

/-- A word of syndrome 0 is the codeword of the message at its systematic positions. -/
theorem encodeMsg_extractMsg_of_syndrome_zero (r : Sym) (h : syndrome r = 0#3) :
    encodeMsg Grom.rom (extractMsg r) = r := by
  revert r; decide

/-- A codeword is pinned by its message bits and syndrome 0. -/
theorem eq_encodeMsg_rom_iff (r : Sym) (m : Msg) :
    r = encodeMsg Grom.rom m ↔ extractMsg r = m ∧ syndrome r = 0#3 := by
  constructor
  · rintro rfl
    exact ⟨extractMsg_encodeMsg_rom m, syndrome_encodeMsg_rom m⟩
  · rintro ⟨rfl, hsyn⟩
    exact (encodeMsg_extractMsg_of_syndrome_zero r hsyn).symm

/-- The message bits of a word are its bits 2, 4, 5 and 6 (R93). -/
theorem extractMsg_eq_iff (r : Sym) (m : Msg) :
    extractMsg r = m ↔
      r.getLsbD 2 = m.getLsbD 3 ∧ r.getLsbD 4 = m.getLsbD 2 ∧ r.getLsbD 5 = m.getLsbD 1 ∧ r.getLsbD 6 = m.getLsbD 0 := by
  have hbits : ∀ (a b c d : Bool) (m : Msg),
      BitVec.ofBool a ++ BitVec.ofBool b ++ BitVec.ofBool c ++ BitVec.ofBool d = m ↔
        a = m.getLsbD 3 ∧ b = m.getLsbD 2 ∧ c = m.getLsbD 1 ∧ d = m.getLsbD 0 := by decide
  exact hbits _ _ _ _ m

/-- The rows of R27 are the codewords of the one-hot messages (R88). -/
theorem eq_rom_iff (g : Grom) :
    g = Grom.rom ↔
      g.row0 = encodeMsg Grom.rom 8#4 ∧ g.row1 = encodeMsg Grom.rom 4#4 ∧
      g.row2 = encodeMsg Grom.rom 2#4 ∧ g.row3 = encodeMsg Grom.rom 1#4 := by
  obtain ⟨r0, r1, r2, r3⟩ := g
  exact (Grom.mk.injEq ..).to_iff

/-! ### The statements of the family -/

/-- Settles O23: each case of an edge keeps the run invariant. -/
theorem everyStepKeepsRunIsMapExec : Obligations.EveryStepKeepsRunIsMapExec :=
  fun _ _ hi hstep => (step_cases hstep).2.keeps_runInv hi

/-- Settles O24: each case of an edge keeps each clause of the invariant. -/
theorem everyStepKeepsInv : Obligations.EveryStepKeepsInv :=
  fun _ _ hi hstep => (step_cases hstep).2.keeps_inv hi

/-- Settles O12, PHASE by PHASE. -/
theorem portTransitions : Obligations.PortTransitions := by
  intro s h
  refine ⟨fun hp hv => ?_, fun hp hv => ?_, fun hp hc => ?_, fun hp hc => ?_, fun hp hr => ?_, fun hp hr => ?_,
    State.outputs_of_resp h.2.1 h.2.2⟩
  · exact ⟨_, step_of_idle h hp, by simp [hv]⟩
  · exact ⟨_, step_of_idle h hp, by simp [hv, hp]⟩
  · exact ⟨s.tick.countDown, by rw [step_of_exec h hp, if_neg (by omega)], by simp [hp]; omega⟩
  · exact ⟨_, step_of_exec h hp, by simp [hc]⟩
  · exact ⟨_, step_of_resp h hp, by simp [hr]⟩
  · exact ⟨_, step_of_resp h hp, by simp [hr, hp]⟩

/-- Settles O14: on the cases of an edge, and for the last part since the outputs read only rst of the sample. -/
theorem transfersNeedValidAndReady : Obligations.TransfersNeedValidAndReady := by
  refine ⟨fun s t hrun hstep => ?_, fun s t hrst hstep => ?_, fun s p ps b hinputs => ?_⟩
  · obtain ⟨-, hdone, hrst⟩ := hrun
    exact (step_cases hstep).2.transfers hdone hrst
  · rw [(step_cases hstep).2.eq_loadReset hrst]
    exact ⟨rfl, rfl⟩
  · exact s.outputs_with_inputs _ (by simp [State.sample, hinputs])

/-- Settles O29: the response is the one of R62. -/
theorem execWritesResponseOnly : Obligations.ExecWritesResponseOnly :=
  fun i s => ⟨_, _, exec_eq i s⟩

/-- Settles O30: the response of R62 is read from the word and GROM. -/
theorem responseDependsOnWordAndGrom : Obligations.ResponseDependsOnWordAndGrom := by
  intro w s₁ s₂ hgrom
  refine ⟨_, _, execWord_eq w s₁, ?_⟩
  rw [hgrom]
  exact execWord_eq w s₂

/-- Settles O31: an instruction ends with `State.answer`, and no case of an edge writes GROM. -/
theorem gromNeverWritten : Obligations.GromNeverWritten := by
  refine ⟨fun i s t hexec => ?_, fun s t hstep => (step_cases hstep).2.grom_eq⟩
  rw [exec_eq] at hexec
  cases hexec
  exact State.answer_grom s _

/-- Settles O44: row by row, a word of syndrome 0 with the bits of a one-hot message is that message's codeword. -/
theorem gromValuesAreForced : Obligations.GromValuesAreForced := by
  intro g
  rw [eq_rom_iff]
  simp only [eq_encodeMsg_rom_iff, extractMsg_eq_iff]
  exact ⟨fun ⟨bits0, bits1, bits2, bits3, syn0, syn1, syn2, syn3⟩ =>
      ⟨⟨bits0, syn0⟩, ⟨bits1, syn1⟩, ⟨bits2, syn2⟩, ⟨bits3, syn3⟩⟩,
    fun ⟨⟨bits0, syn0⟩, ⟨bits1, syn1⟩, ⟨bits2, syn2⟩, ⟨bits3, syn3⟩⟩ =>
      ⟨bits0, bits1, bits2, bits3, syn0, syn1, syn2, syn3⟩⟩

/-- Settles O10: the state it names is `s.tick`. -/
theorem stepRunsDecoded : Obligations.StepRunsDecoded :=
  fun _ i hrun hp hc hd => ⟨wellFormed_of_instr i, step_exec_decoded hrun hp hc hd⟩

/-- Settles O15: cmd_ready is PHASE = IDLE and rsp_valid is PHASE = RESP. -/
theorem phaseDrivesOutputs : Obligations.PhaseDrivesOutputs := by
  intro s hdone hrst
  rw [State.outputs_cmdReady, State.outputs_rspValid, State.cmdReady_eq_idle hdone hrst,
    State.rspValid_eq_resp hdone hrst]
  exact ⟨fun hp => by simp [hp], fun hp => by simp [hp], fun hp => by simp [hp]⟩

/-- Settles O19: the duties the statement assumes pass the first two checks of the edge, the look fails the third. -/
theorem readWithoutResponseFaults : Obligations.ReadWithoutResponseFaults :=
  fun s hread hnone hbefore hoffer =>
    step_fault_of_read hbefore ((s.offerHeld_iff _).2 hoffer) hread (s.holdsResponse_eq_false_iff.2 hnone)

/-- Settles O25: nothing is in flight and nothing is recorded. -/
theorem resetMeetsInv : Obligations.ResetMeetsInv where
  grom_fixed := rfl
  counts_down := fun _ hexec => nomatch hexec
  error_data := fun _ _ => rfl
  run_matches := fun _ => ⟨rfl, fun hbusy => absurd rfl hbusy, fun hresp => nomatch hresp⟩
  records_errors := fun _ hmem => nomatch hmem

/-- Settles O26: each register of R38 and each row of R27, read off State.reset. -/
theorem resetValues : Obligations.ResetValues := by
  unfold Obligations.ResetValues
  decide

end Sys2Proof.Machine
end

section
/-! PROOFS, the family of 20_memory.md. The words of a host's stream are the commands they were encoded from, HDIST at
width 4 gives the residual errors of a symbol, and the decoder undoes exactly the patterns of at most one flip; then the
theorems that settle the family's statements. -/

namespace Sys2Proof.Machine

/-! ### An encoded command decodes to itself (R54, R60) -/

/-- No two rows select one word: the OP codes of the opcode map differ (R60). -/
theorem row_eq_of_selects {r₁ r₂ : OpRow} (h₁ : r₁ ∈ opTable) (h₂ : r₂ ∈ opTable) {w : Word}
    (hs₁ : r₁.selects w = true) (hs₂ : r₂.selects w = true) : r₁ = r₂ := by
  have hcodes : ∀ r₁ ∈ opTable, ∀ r₂ ∈ opTable, opCode r₁.op = opCode r₂.op → r₁ = r₂ := by decide
  rw [(mem_opTable_iff r₁).1 h₁, rowOf_selects_iff] at hs₁
  rw [(mem_opTable_iff r₂).1 h₂, rowOf_selects_iff] at hs₂
  obtain ⟨hop₁, -⟩ := hs₁
  obtain ⟨hop₂, -⟩ := hs₂
  exact hcodes r₁ h₁ r₂ h₂ (hop₁.symm.trans hop₂)

/-- A word decodes to the operation of the row that selects it (R60). -/
theorem decodeWord_of_selects {r : OpRow} (hr : r ∈ opTable) {w : Word} (hs : r.selects w = true) :
    decodeWord w = .ok (buildInstr r.op w) := by
  unfold decodeWord
  cases hfind : opTable.find? (fun r => r.selects w) with
  | none => exact absurd hs (List.find?_eq_none.1 hfind r hr)
  | some r' =>
    have hfirst : r'.selects w = true := List.find?_some (p := fun r : OpRow => r.selects w) hfind
    rw [row_eq_of_selects (List.mem_of_find?_eq_some hfind) hr hfirst hs]

/-- The word of an instruction decodes to it, given that its own row selects the word and reads its operands back. -/
theorem decodeWord_encode_of_rowForm {i : Instr} (h : Laws.RowForm.Statement i) : decodeWord (encode i) = .ok i := by
  obtain ⟨hsel, hbuild⟩ := h
  have hop : (rowOf i.op).op = i.op := by cases i.op <;> rfl
  have hrow : rowOf i.op ∈ opTable := (mem_opTable_iff _).2 (by rw [hop])
  rw [decodeWord_of_selects hrow hsel, hop, hbuild]

/-- A word that decodes gets the response of its operation (R62). -/
theorem wordResponse_of_decode {w : Word} {i : Instr} (h : decodeWord w = .ok i) (g : Grom) :
    wordResponse g w = responseOf (answerOf g i) := by
  simp [wordResponse, h]

/-! ### HDIST at width 4 gives the residual errors (R42, R78) -/

/-- A message is a symbol of width 4 in its operand field (R53). -/
theorem isSymbol_setWidth (m : Msg) : IsSymbol .w4 (m.setWidth 7) := by
  simp only [IsSymbol, widthNat, BitVec.toNat_setWidth]
  omega

/-- HDIST of two symbols of the width answers their distance (R78). -/
theorem hdistAnswer_of_isSymbol {w : SymWidth} {a b : Sym} (ha : IsSymbol w a) (hb : IsSymbol w b) :
    hdistAnswer w a b = .ok (BitVec.ofNat 7 (hamming a b w)) :=
  checkWidth_of_true (by simp [(fits_iff_lt a w).2 ha, (fits_iff_lt b w).2 hb]) _

theorem hdistAnswer_messages (m d : Msg) :
    hdistAnswer .w4 (m.setWidth 7) (d.setWidth 7) = .ok (BitVec.ofNat 7 (residualErrors m d)) :=
  hdistAnswer_of_isSymbol (isSymbol_setWidth m) (isSymbol_setWidth d)

/-- The response to a command of the tally, whatever GROM holds (R42). -/
theorem wordResponse_hdist_messages (g : Grom) (m d : Msg) :
    wordResponse g (encode (.hdist .w4 (m.setWidth 7) (d.setWidth 7))) =
      ⟨statusOk, BitVec.ofNat 7 (residualErrors m d)⟩ := by
  rw [wordResponse_of_decode (decodeWord_encode_of_rowForm (Laws.RowForm.hdist ..)), answerOf, hdistAnswer_messages,
    responseOf]

/-- Two messages differ in at most 4 bits, so the 7 bits of a response hold their residual errors. -/
theorem residualErrors_le (m d : Msg) : residualErrors m d ≤ 4 :=
  List.length_filter_le _ (List.range 4)

theorem toNat_ofNat_residualErrors (m d : Msg) : (BitVec.ofNat 7 (residualErrors m d)).toNat = residualErrors m d := by
  have hle := residualErrors_le m d
  rw [BitVec.toNat_ofNat]
  omega

/-- The tally is 0 exactly if every message was decoded to itself (R42). -/
theorem residualTally_eq_zero_iff (ps : List (Msg × Msg)) : residualTally ps = 0 ↔ ∀ p ∈ ps, p.1 = p.2 := by
  rw [residualTally_eq_sum, List.sum_eq_zero_iff, List.forall_mem_map]
  simp only [residualErrors_eq_zero_iff]

/-! ### The decoder undoes exactly the patterns of at most one flip (R91, R92, R97) -/

/-- What one bit of a word adds to its syndrome: its 1-based position, if it is set (R90). -/
def syndromeTerm (r : Sym) (i : Nat) : Syndrome := if r.getLsbD i then BitVec.ofNat 3 (i + 1) else 0#3

theorem syndromeRound_eq (r : Sym) (acc : Syndrome) (i : Nat) : syndromeRound r acc i = acc ^^^ syndromeTerm r i := by
  unfold syndromeRound syndromeTerm
  split <;> simp

theorem syndromeTerm_xor (a b : Sym) (i : Nat) : syndromeTerm (a ^^^ b) i = syndromeTerm a i ^^^ syndromeTerm b i := by
  unfold syndromeTerm
  rw [BitVec.getLsbD_xor]
  cases a.getLsbD i <;> cases b.getLsbD i <;> simp

/-- One round of syndrome's loop is linear in the word and the accumulator. -/
theorem syndromeRound_xor (a b : Sym) (x y : Syndrome) (i : Nat) :
    syndromeRound (a ^^^ b) (x ^^^ y) i = syndromeRound a x i ^^^ syndromeRound b y i := by
  simp only [syndromeRound_eq, syndromeTerm_xor]
  ac_rfl

theorem foldl_syndromeRound_xor (a b : Sym) (l : List Nat) (x y : Syndrome) :
    l.foldl (syndromeRound (a ^^^ b)) (x ^^^ y) = l.foldl (syndromeRound a) x ^^^ l.foldl (syndromeRound b) y := by
  induction l generalizing x y with
  | nil => rfl
  | cons i l ih => simp only [List.foldl_cons, syndromeRound_xor, ih]

/-- syndrome is linear (R91). -/
theorem syndrome_xor (a b : Sym) : syndrome (a ^^^ b) = syndrome a ^^^ syndrome b :=
  foldl_syndromeRound_xor a b _ 0#3 0#3

/-- correct gives a word of syndrome 0 from every word (R92). -/
theorem syndrome_correct (r : Sym) : syndrome (correct r) = 0#3 := by
  revert r; decide

/-- What correct flips depends on the error pattern alone: a codeword below it has no part in the syndrome. -/
theorem correct_xor_of_syndrome_zero {c : Sym} (h : syndrome c = 0#3) (e : Sym) :
    correct (c ^^^ e) = c ^^^ correct e := by
  have hsyn : syndrome (c ^^^ e) = syndrome e := by rw [syndrome_xor, h, BitVec.zero_xor]
  simp only [correct, hsyn]
  split
  · exact BitVec.xor_assoc ..
  · rfl

/-- correct removes a pattern of flips altogether exactly if it has at most one. -/
theorem correct_eq_zero_iff (e : Sym) : correct e = 0#7 ↔ onesCount e ≤ 1 := by
  revert e; decide

/-- A word decodes to a message exactly if it is corrected to the message's codeword. -/
theorem decodeSym_eq_iff (r : Sym) (m : Msg) : decodeSym r = m ↔ correct r = encodeMsg Grom.rom m := by
  rw [eq_encodeMsg_rom_iff, decodeSym]
  exact (and_iff_left (syndrome_correct r)).symm

/-- A codeword with a pattern of flips decodes to its message exactly if at most one bit is flipped (R97, R98). -/
theorem decodeSym_encodeMsg_xor_iff (m : Msg) (e : Sym) :
    decodeSym (encodeMsg Grom.rom m ^^^ e) = m ↔ onesCount e ≤ 1 := by
  rw [decodeSym_eq_iff, correct_xor_of_syndrome_zero (syndrome_encodeMsg_rom m), ← correct_eq_zero_iff]
  simp

/-! ### The statements of the family -/

/-- Settles O59: each command of the tally gets the residual errors of its messages. -/
theorem tallyByHdistCommands : Obligations.TallyByHdistCommands := by
  intro g ps
  refine ⟨fun w hw => ?_, ?_, residualTally_eq_zero_iff ps⟩
  · obtain ⟨p, -, rfl⟩ := List.mem_map.1 hw
    rw [wordResponse_hdist_messages, statusOk]
  · simp only [tallyStream, List.map_map, Function.comp_def, wordResponse_hdist_messages, toNat_ofNat_residualErrors,
      residualTally_eq_sum]

/-- Settles O60: the tally is 0 exactly if each message is decoded to itself, and so exactly if each pattern has at most
one flip. -/
theorem tallyZeroIffSingleErrors : Obligations.TallyZeroIffSingleErrors := by
  intro es
  rw [residualTally_eq_zero_iff, List.forall_mem_map]
  exact forall₂_congr fun e _ => eq_comm.trans (decodeSym_encodeMsg_xor_iff e.1 e.2)

/-- Settles O56: the stream of a byte and of those after it is the byte's two nibbles before their stream. -/
theorem highNibbleFirst : Obligations.HighNibbleFirst :=
  ⟨rfl, fun _ _ => List.flatMap_cons, by decide⟩

/-- Settles O58: both messages fit width 4, so HDIST passes its width check and answers their distance. -/
theorem residualErrorsByHdist : Obligations.ResidualErrorsByHdist := by
  refine ⟨fun s a b => ⟨residualErrors_eq_onesCount a b, ?_⟩, rfl, fun _ _ _ => rfl⟩
  rw [AnswersWith, exec_eq, answerOf, hdistAnswer_messages]
  rfl

end Sys2Proof.Machine
end

section
/-! PROOFS, the family of 30_encoding.md. A word decodes by the row that selects it and is its fields put together again,
an illegal word has one of R61's causes and answers ILLEGAL, and the assembler takes the forms of R63 and R64; then the
theorems that settle the family's statements. -/

namespace Sys2Proof.Machine

/-! ### Decoding follows the row that selects the word (R59, R60) -/

theorem selects_iff_and_eq (r : OpRow) (w : Word) : r.selects w = true ↔ w &&& r.mask = r.value := beq_iff_eq

@[simp] theorem rowOf_op (op : Op) : (rowOf op).op = op := by
  cases op <;> rfl

theorem rowOf_mem_opTable (op : Op) : rowOf op ∈ opTable :=
  (mem_opTable_iff _).2 (by rw [rowOf_op])

/-- The word of every instruction is selected by its own row, and its operands are read back (R54, R59). -/
theorem rowForm_statement (i : Instr) : Laws.RowForm.Statement i := by
  cases i with
  | enc a => exact Laws.RowForm.enc a
  | dec a => exact Laws.RowForm.dec a
  | mdist => exact Laws.RowForm.mdist
  | grow idx => exact Laws.RowForm.grow idx
  | synd a => exact Laws.RowForm.synd a
  | bxor w a b => exact Laws.RowForm.bxor w a b
  | popc w a => exact Laws.RowForm.popc w a
  | getb w a idx => exact Laws.RowForm.getb w a idx
  | setb w a idx v => exact Laws.RowForm.setb w a idx v
  | flipb w a idx => exact Laws.RowForm.flipb w a idx
  | hdist w a b => exact Laws.RowForm.hdist w a b

/-- A word decodes to the operation of a row that selects it, and to nothing else (R60, R62). -/
theorem decodeWord_eq_ok_iff (w : Word) (i : Instr) :
    decodeWord w = .ok i ↔ ∃ r ∈ opTable, w &&& r.mask = r.value ∧ i = buildInstr r.op w := by
  constructor
  · intro hd
    unfold decodeWord at hd
    split at hd
    · next r hfind =>
      have hs : r.selects w = true := List.find?_some (p := fun r : OpRow => r.selects w) hfind
      cases hd
      exact ⟨r, List.mem_of_find?_eq_some hfind, (selects_iff_and_eq r w).1 hs, rfl⟩
    · cases hd
  · rintro ⟨r, hr, hs, rfl⟩
    exact decodeWord_of_selects hr ((selects_iff_and_eq r w).2 hs)

/-- A word is rejected exactly if no row selects it (R61). -/
theorem decodeWord_error_iff (w : Word) :
    (∃ e, decodeWord w = .error e) ↔ ∀ r ∈ opTable, w &&& r.mask ≠ r.value := by
  have hfind : (∃ e, decodeWord w = .error e) ↔ opTable.find? (fun r => r.selects w) = none := by
    unfold decodeWord
    cases opTable.find? (fun r => r.selects w) <;> simp
  rw [hfind, List.find?_eq_none]
  simp only [selects_iff_and_eq, ne_eq]

/-- At most one row selects a word (R60). -/
theorem row_eq_of_and_eq {r₁ r₂ : OpRow} (h₁ : r₁ ∈ opTable) (h₂ : r₂ ∈ opTable) {w : Word}
    (hs₁ : w &&& r₁.mask = r₁.value) (hs₂ : w &&& r₂.mask = r₂.value) : r₁ = r₂ :=
  row_eq_of_selects h₁ h₂ ((selects_iff_and_eq r₁ w).2 hs₁) ((selects_iff_and_eq r₂ w).2 hs₂)

/-! ### A selected word is its fields put together again (R54, R59) -/

/-- The word a row selects is the encoding of the row's operation with the word's fields. -/
theorem encode_buildInstr {op : Op} {w : Word} (h : (rowOf op).selects w = true) : encode (buildInstr op w) = w := by
  obtain ⟨hop, hrsvd, hzero⟩ := (rowOf_selects_iff op w).1 h
  have hfields := assembleFields_fields hrsvd
  have hv : BitVec.ofBool (vField w == 1#1) = vField w := by generalize vField w = v; revert v; decide
  rw [hop] at hfields
  cases op <;>
  · simp only [OperandFieldsOnly] at hzero
    simpa only [opCode, buildInstr, encode, bitOfWidth_widthOfBit, hv, hzero] using hfields

/-! ### The illegal words (R61) -/

/-- Two operations have different OP codes, as the rows of the opcode map show. -/
theorem opCode_injective {op₁ op₂ : Op} (h : opCode op₁ = opCode op₂) : op₁ = op₂ := by
  have hrows : ∀ r₁ ∈ opTable, ∀ r₂ ∈ opTable, opCode r₁.op = opCode r₂.op → r₁.op = r₂.op := by decide
  simpa using hrows _ (rowOf_mem_opTable op₁) _ (rowOf_mem_opTable op₂) (by simpa using h)

/-- The OP codes of the opcode map are 1 to 0xB. -/
theorem opCode_assigned (op : Op) : ¬ (opCode op = 0x0#4 ∨ 0xC#4 ≤ opCode op) := by
  cases op <;> decide

theorem exists_opCode {c : BitVec 4} (h : ¬ (c = 0x0#4 ∨ 0xC#4 ≤ c)) : ∃ op, c = opCode op := by
  have hrows : ∀ c : BitVec 4, ¬ (c = 0x0#4 ∨ 0xC#4 ≤ c) → ∃ r ∈ opTable, c = opCode r.op := by decide
  obtain ⟨r, -, hr⟩ := hrows c h
  exact ⟨r.op, hr⟩

/-- A word is rejected exactly if no operation has its OP code, RSVD = 0 and its must-be-zero fields zero (R60, R61). -/
theorem decodeWord_error_iff_no_op (w : Word) :
    (∃ e, decodeWord w = .error e) ↔
      ∀ op, ¬ (opField w = opCode op ∧ rsvdField w = 0#9 ∧ OperandFieldsOnly op w) := by
  simp only [decodeWord_error_iff, ← rowOf_selects_iff, selects_iff_and_eq]
  exact ⟨fun hnone op => hnone _ (rowOf_mem_opTable op), fun hnone r hr => (mem_opTable_iff r).1 hr ▸ hnone r.op⟩

/-- R61's causes: a word is rejected exactly if its OP is not assigned, RSVD is not 0, or a must-be-zero field of its
OP's row is not 0. -/
theorem decodeWord_error_iff_cause (w : Word) :
    (∃ e, decodeWord w = .error e) ↔
      opField w = 0x0#4 ∨ 0xC#4 ≤ opField w ∨ rsvdField w ≠ 0#9 ∨
        ∃ op, opField w = opCode op ∧ ¬ OperandFieldsOnly op w := by
  rw [decodeWord_error_iff_no_op]
  constructor
  · intro hnone
    by_contra hcause
    push Not at hcause
    obtain ⟨hop0, hopC, hrsvd, hzero⟩ := hcause
    obtain ⟨op, hop⟩ := exists_opCode (c := opField w) (by simp [hop0, hopC])
    exact hnone op ⟨hop, hrsvd, hzero op hop⟩
  · rintro hcause op ⟨hop, hrsvd, hzero⟩
    have hassigned := opCode_assigned op
    rw [← hop] at hassigned
    rcases hcause with hop0 | hopC | hrsvd' | ⟨op', hop', hzero'⟩
    · exact hassigned (.inl hop0)
    · exact hassigned (.inr hopC)
    · exact hrsvd' hrsvd
    · cases opCode_injective (hop.symm.trans hop')
      exact hzero' hzero

/-- The response to a word that no row selects (R62, R107). -/
theorem wordResponse_of_error {w : Word} {e : DecodeError} (h : decodeWord w = .error e) (g : Grom) :
    wordResponse g w = ⟨1#2, 0#7⟩ := by
  simp [wordResponse, h, responseOf, CodecError.code]

/-- Exec of a word that no row selects: IllegalCommand's code with data 0 (R61, R62). -/
theorem execWord_of_error {w : Word} (h : ∃ e, decodeWord w = .error e) (s : State) :
    execWord w s = .next { s with rspStatus := 1#2, rspData := 0#7, phase := .resp } := by
  obtain ⟨e, he⟩ := h
  rw [execWord_eq, wordResponse_of_error he]
  rfl

theorem execWord_of_decode {w : Word} {i : Instr} (h : decodeWord w = .ok i) (s : State) :
    execWord w s = exec i s := by
  rw [execWord_eq, wordResponse_of_decode h, exec_eq]

/-! ### The lines the assembler takes (R63, R64) -/

/-- The forms of R63 without a suffix: mnemonic, operands that fit their fields, and the command they stand for. -/
inductive PlainForm : String → List Nat → Instr → Prop where
  | enc {a : Nat} (ha : a ≤ 127) : PlainForm "ENC" [a] (.enc (BitVec.ofNat 7 a))
  | dec {a : Nat} (ha : a ≤ 127) : PlainForm "DEC" [a] (.dec (BitVec.ofNat 7 a))
  | mdist : PlainForm "MDIST" [] .mdist
  | grow {i : Nat} (hi : i ≤ 7) : PlainForm "GROW" [i] (.grow (BitVec.ofNat 3 i))
  | synd {a : Nat} (ha : a ≤ 127) : PlainForm "SYND" [a] (.synd (BitVec.ofNat 7 a))

/-- The forms of R63 with a suffix that selects the width `w`, and the CLRB of R64. -/
inductive WidthForm (w : SymWidth) : String → List Nat → Instr → Prop where
  | bxor {a b : Nat} (ha : a ≤ 127) (hb : b ≤ 127) :
      WidthForm w "BXOR" [a, b] (.bxor w (BitVec.ofNat 7 a) (BitVec.ofNat 7 b))
  | popc {a : Nat} (ha : a ≤ 127) : WidthForm w "POPC" [a] (.popc w (BitVec.ofNat 7 a))
  | getb {a i : Nat} (ha : a ≤ 127) (hi : i ≤ 7) :
      WidthForm w "GETB" [a, i] (.getb w (BitVec.ofNat 7 a) (BitVec.ofNat 3 i))
  | setb {a i v : Nat} (ha : a ≤ 127) (hi : i ≤ 7) (hv : v ≤ 1) :
      WidthForm w "SETB" [a, i, v] (.setb w (BitVec.ofNat 7 a) (BitVec.ofNat 3 i) (v == 1))
  | flipb {a i : Nat} (ha : a ≤ 127) (hi : i ≤ 7) :
      WidthForm w "FLIPB" [a, i] (.flipb w (BitVec.ofNat 7 a) (BitVec.ofNat 3 i))
  | hdist {a b : Nat} (ha : a ≤ 127) (hb : b ≤ 127) :
      WidthForm w "HDIST" [a, b] (.hdist w (BitVec.ofNat 7 a) (BitVec.ofNat 7 b))
  | clrb {a i : Nat} (ha : a ≤ 127) (hi : i ≤ 7) :
      WidthForm w "CLRB" [a, i] (.setb w (BitVec.ofNat 7 a) (BitVec.ofNat 3 i) false)

theorem PlainForm.not_suffixed {m : String} {ops : List Nat} {c : Instr} (h : PlainForm m ops c) :
    m ∉ suffixedMnemonics := by
  cases h <;> decide

theorem WidthForm.suffixed {w : SymWidth} {m : String} {ops : List Nat} {c : Instr} (h : WidthForm w m ops c) :
    m ∈ suffixedMnemonics := by
  cases h <;> decide

@[simp] theorem fitsSymField_eq_true_iff (n : Nat) : fitsSymField n = true ↔ n ≤ 127 := decide_eq_true_iff
@[simp] theorem fitsIdxField_eq_true_iff (n : Nat) : fitsIdxField n = true ↔ n ≤ 7 := decide_eq_true_iff
@[simp] theorem fitsBitField_eq_true_iff (n : Nat) : fitsBitField n = true ↔ n ≤ 1 := decide_eq_true_iff

/-- The operand check passes exactly the operands of a form, and `formOf` gives that form's command. -/
theorem operandsOk_and_formOf_iff (m : String) (suffix : Option String) (ops : List Nat) (c : Instr) :
    AsmLine.operandsOk ⟨m, suffix, ops⟩ = true ∧ formOf ⟨m, suffix, ops⟩ = some c ↔
      PlainForm m ops c ∨ WidthForm (suffixWidth suffix) m ops c := by
  constructor
  · rintro ⟨hops, hform⟩
    unfold AsmLine.operandsOk at hops
    unfold formOf at hform
    match ops with
    | [] =>
      obtain rfl : m = "MDIST" := by simpa using hops
      cases hform
      exact .inl .mdist
    | [x] =>
      obtain ⟨rfl | rfl | rfl | rfl, hx⟩ | ⟨rfl, hx⟩ :
          (m = "ENC" ∨ m = "DEC" ∨ m = "SYND" ∨ m = "POPC") ∧ x ≤ 127 ∨ m = "GROW" ∧ x ≤ 7 := by simpa using hops
      all_goals cases hform
      · exact .inl (.enc hx)
      · exact .inl (.dec hx)
      · exact .inl (.synd hx)
      · exact .inr (.popc hx)
      · exact .inl (.grow hx)
    | [x, y] =>
      obtain ⟨⟨rfl | rfl, hx⟩, hy⟩ | ⟨⟨rfl | rfl | rfl, hx⟩, hy⟩ :
          ((m = "BXOR" ∨ m = "HDIST") ∧ x ≤ 127) ∧ y ≤ 127 ∨
          ((m = "GETB" ∨ m = "FLIPB" ∨ m = "CLRB") ∧ x ≤ 127) ∧ y ≤ 7 := by simpa using hops
      all_goals cases hform
      · exact .inr (.bxor hx hy)
      · exact .inr (.hdist hx hy)
      · exact .inr (.getb hx hy)
      · exact .inr (.flipb hx hy)
      · exact .inr (.clrb hx hy)
    | [x, y, z] =>
      obtain ⟨⟨⟨rfl, hx⟩, hy⟩, hz⟩ : ((m = "SETB" ∧ x ≤ 127) ∧ y ≤ 7) ∧ z ≤ 1 := by simpa using hops
      cases hform
      exact .inr (.setb hx hy hz)
    | _ :: _ :: _ :: _ :: _ => cases hops
  · rintro (h | h) <;> cases h <;> simp [AsmLine.operandsOk, formOf, *]

/-- A suffix selects a width: `.4` is W = 0, `.7` is W = 1 (R58, R63). -/
abbrev SuffixSelects (s : String) (w : SymWidth) : Prop := (s = "4" ∧ w = .w4) ∨ (s = "7" ∧ w = .w7)

theorem suffixOk_iff_of_not_suffixed {m : String} (h : m ∉ suffixedMnemonics) (suffix : Option String)
    (ops : List Nat) : AsmLine.suffixOk ⟨m, suffix, ops⟩ = true ↔ suffix = none := by
  simp [AsmLine.suffixOk, h]

theorem suffixOk_iff_of_suffixed {m : String} (h : m ∈ suffixedMnemonics) (suffix : Option String) (ops : List Nat) :
    AsmLine.suffixOk ⟨m, suffix, ops⟩ = true ↔ suffix = some "4" ∨ suffix = some "7" := by
  simp [AsmLine.suffixOk, h]

/-- The assembler answers the command `formOf` gives for a line that passes both checks, and no other. -/
theorem assemble_eq_ok_iff_checks (l : AsmLine) (c : Instr) :
    assemble l = .ok c ↔ l.suffixOk = true ∧ l.operandsOk = true ∧ formOf l = some c := by
  unfold assemble AsmLine.wellFormed
  cases l.suffixOk <;> cases l.operandsOk <;> cases formOf l <;> simp

/-- The assembler answers the command of a form that has the suffix its mnemonic asks for, and no other. -/
theorem assemble_eq_ok_iff (m : String) (suffix : Option String) (ops : List Nat) (c : Instr) :
    assemble ⟨m, suffix, ops⟩ = .ok c ↔
      (suffix = none ∧ PlainForm m ops c) ∨ ∃ s w, SuffixSelects s w ∧ suffix = some s ∧ WidthForm w m ops c := by
  rw [assemble_eq_ok_iff_checks, operandsOk_and_formOf_iff]
  constructor
  · rintro ⟨hsuffix, hform | hform⟩
    · exact .inl ⟨(suffixOk_iff_of_not_suffixed hform.not_suffixed ..).1 hsuffix, hform⟩
    · rcases (suffixOk_iff_of_suffixed hform.suffixed ..).1 hsuffix with rfl | rfl
      · exact .inr ⟨"4", .w4, .inl ⟨rfl, rfl⟩, rfl, hform⟩
      · exact .inr ⟨"7", .w7, .inr ⟨rfl, rfl⟩, rfl, hform⟩
  · rintro (⟨rfl, hform⟩ | ⟨s, w, ⟨rfl, rfl⟩ | ⟨rfl, rfl⟩, rfl, hform⟩)
    · exact ⟨(suffixOk_iff_of_not_suffixed hform.not_suffixed ..).2 rfl, .inl hform⟩
    · exact ⟨(suffixOk_iff_of_suffixed hform.suffixed ..).2 (.inl rfl), .inr hform⟩
    · exact ⟨(suffixOk_iff_of_suffixed hform.suffixed ..).2 (.inr rfl), .inr hform⟩

theorem assemble_of_plainForm {m : String} {ops : List Nat} {c : Instr} (h : PlainForm m ops c) :
    assemble ⟨m, none, ops⟩ = .ok c :=
  (assemble_eq_ok_iff ..).2 (.inl ⟨rfl, h⟩)

theorem assemble_of_widthForm {s m : String} {w : SymWidth} {ops : List Nat} {c : Instr} (hs : SuffixSelects s w)
    (h : WidthForm w m ops c) : assemble ⟨m, some s, ops⟩ = .ok c :=
  (assemble_eq_ok_iff ..).2 (.inr ⟨s, w, hs, rfl, h⟩)

/-- A line that stands for no instruction is refused as ill-formed. -/
theorem assemble_eq_illFormed {l : AsmLine} (h : ∀ c, assemble l ≠ .ok c) : assemble l = .error .illFormed := by
  unfold assemble at h ⊢
  split
  · cases hform : formOf l with
    | some c => exact absurd (by simp [*]) (h c)
    | none => rfl
  · rfl

/-! ### The statements of the family -/

/-- Settles O1: the instruction's own row selects its word and reads its operands back. -/
theorem decodeOfEncode : Obligations.DecodeOfEncode :=
  fun i => decodeWord_encode_of_rowForm (rowForm_statement i)

/-- Settles O2: the row that selects the word says that every field but its operands is zero. -/
theorem encodeOfDecode : Obligations.EncodeOfDecode := by
  intro w i hd
  obtain ⟨r, hr, hs, rfl⟩ := (decodeWord_eq_ok_iff w i).1 hd
  apply encode_buildInstr
  rw [← (mem_opTable_iff r).1 hr, selects_iff_and_eq, hs]

/-- Settles O3: the rows' values and masks are looked through, and two rows that select one word agree in OP. -/
theorem uniqueRowSelects : Obligations.UniqueRowSelects :=
  ⟨by decide, by decide, fun _ _ hr₁ _ hr₂ => row_eq_of_and_eq hr₁ hr₂, decodeWord_eq_ok_iff⟩

/-- Settles O4: the causes, the row form, the answer, and the one row of a word that is not rejected. -/
theorem illegalWords : Obligations.IllegalWords := by
  refine fun w => ⟨decodeWord_error_iff_cause w, decodeWord_error_iff w, execWord_of_error, fun hlegal => ?_⟩
  rw [decodeWord_error_iff] at hlegal
  push Not at hlegal
  obtain ⟨r, hr, hs⟩ := hlegal
  exact ⟨⟨_, (decodeWord_eq_ok_iff w _).2 ⟨r, hr, hs, rfl⟩⟩, r, hr, hs,
    fun r' hr' hs' => row_eq_of_and_eq hr' hr hs' hs⟩

/-- Settles O6: by the row that selects the word, or by there being none; the answer is the response of R62. -/
theorem execOfEveryWord : Obligations.ExecOfEveryWord :=
  fun w s => ⟨fun hnone => execWord_of_error ((decodeWord_error_iff w).2 hnone) s,
    fun r hr hs => execWord_of_decode ((decodeWord_eq_ok_iff w _).2 ⟨r, hr, hs, rfl⟩) s,
    _, _, execWord_eq w s⟩

/-- Settles O8: the forms, with the suffix their mnemonic asks for, are the lines that pass the assembler's checks. -/
theorem assemblerTakesWellFormedLines : Obligations.AssemblerTakesWellFormedLines := by
  intro l
  refine ⟨fun c => ⟨fun hok => ?_, ?_⟩, assemble_eq_illFormed⟩
  · obtain ⟨m, suffix, ops⟩ := l
    rcases (assemble_eq_ok_iff ..).1 hok with ⟨rfl, hform⟩ | ⟨s, w, hs, rfl, hform⟩
    · cases hform <;> simp [*]
    · refine .inr (.inr (.inr (.inr (.inr ⟨s, w, ?_⟩))))
      cases hform <;> simp [*]
  · rintro (⟨a, ha, rfl, rfl⟩ | ⟨a, ha, rfl, rfl⟩ | ⟨rfl, rfl⟩ | ⟨i, hi, rfl, rfl⟩ | ⟨a, ha, rfl, rfl⟩ |
      ⟨s, w, a, hs, ha, ⟨b, hb, rfl, rfl⟩ | ⟨rfl, rfl⟩ | ⟨i, hi, rfl, rfl⟩ | ⟨i, v, hi, hv, rfl, rfl⟩ |
        ⟨i, hi, rfl, rfl⟩ | ⟨b, hb, rfl, rfl⟩ | ⟨i, hi, rfl, rfl⟩⟩)
    · exact assemble_of_plainForm (.enc ha)
    · exact assemble_of_plainForm (.dec ha)
    · exact assemble_of_plainForm .mdist
    · exact assemble_of_plainForm (.grow hi)
    · exact assemble_of_plainForm (.synd ha)
    · exact assemble_of_widthForm hs (.bxor ha hb)
    · exact assemble_of_widthForm hs (.popc ha)
    · exact assemble_of_widthForm hs (.getb ha hi)
    · exact assemble_of_widthForm hs (.setb ha hi hv)
    · exact assemble_of_widthForm hs (.flipb ha hi)
    · exact assemble_of_widthForm hs (.hdist ha hb)
    · exact assemble_of_widthForm hs (.clrb ha hi)

/-- Settles O5: each word is decoded. -/
theorem sampleWordsDecode : Obligations.SampleWordsDecode := by
  unfold Obligations.SampleWordsDecode
  decide

/-- Settles O7: each line has its form. -/
theorem assemblerForms : Obligations.AssemblerForms := by
  intro a b i v ha hb hi hv
  refine ⟨assemble_of_plainForm (.enc ha), assemble_of_plainForm (.dec ha), assemble_of_plainForm .mdist,
    assemble_of_plainForm (.grow hi), assemble_of_plainForm (.synd ha), fun p hp => ?_⟩
  have hs : SuffixSelects p.1 p.2 := by
    rcases List.mem_pair.1 hp with rfl | rfl <;> decide
  exact ⟨assemble_of_widthForm hs (.bxor ha hb), assemble_of_widthForm hs (.popc ha),
    assemble_of_widthForm hs (.getb ha hi), assemble_of_widthForm hs (.setb ha hi hv),
    assemble_of_widthForm hs (.flipb ha hi), assemble_of_widthForm hs (.hdist ha hb)⟩

/-- Settles O9: the two lines pass the same checks, the bit value 0 fitting its field, and have one form. -/
theorem clrbExpandsToSetb : Obligations.ClrbExpandsToSetb := by
  intro suffix a i
  have hsuffix : AsmLine.suffixOk ⟨"CLRB", suffix, [a, i]⟩ = AsmLine.suffixOk ⟨"SETB", suffix, [a, i, 0]⟩ := rfl
  have hops : AsmLine.operandsOk ⟨"CLRB", suffix, [a, i]⟩ = AsmLine.operandsOk ⟨"SETB", suffix, [a, i, 0]⟩ := by
    simp [AsmLine.operandsOk, fitsBitField]
  have hform : formOf ⟨"CLRB", suffix, [a, i]⟩ = formOf ⟨"SETB", suffix, [a, i, 0]⟩ := rfl
  unfold assemble AsmLine.wellFormed
  rw [hsuffix, hops, hform]

/-- Settles O11: EXEC with at most one edge to go ends with the response to PEND, which is ILLEGAL's. -/
theorem stepAnswersIllegal : Obligations.StepAnswersIllegal := by
  intro s e hrun hp hc hd
  have hstep := step_of_exec hrun hp
  rw [if_pos hc, wordResponse_of_error hd] at hstep
  exact ⟨_, hstep, rfl, rfl, rfl, rfl⟩

end Sys2Proof.Machine
end

section
/-! PROOFS, the family of 40_bitvector.md. What an operation behind the checks of R56 and R57 answers, each function of
the primitive bit by bit, and the ones of a symbol as a weight under XOR; then the theorems that settle the family's
statements. -/

namespace Sys2Proof.Machine

/-! ### What a checked operation answers (R56, R57, R110) -/

/-- A command's answer is all it does: its response, and every other piece of state as before (R33, R62). -/
theorem answersWith_of_answerOf (i : Instr) (s : State) :
    AnswersWith i s (responseOf (answerOf s.grom i)).status (responseOf (answerOf s.grom i)).data :=
  exec_eq i s

/-- A command whose answer stands behind the width check alone: two clauses that exclude each other. -/
theorem answersWith_of_checkWidth {i : Instr} {s : State} {ok : Bool} {d : Sym} {P : Prop} (hok : ok = true ↔ P)
    (h : answerOf s.grom i = checkWidth ok (.ok d)) :
    (P → AnswersWith i s 0#2 d) ∧ (¬ P → AnswersWith i s 2#2 0#7) := by
  have hanswer := answersWith_of_answerOf i s
  rw [h] at hanswer
  refine ⟨fun hp => ?_, fun hp => ?_⟩
  · rwa [checkWidth_of_true (hok.2 hp)] at hanswer
  · rwa [checkWidth_of_false (Bool.eq_false_iff.2 (mt hok.1 hp))] at hanswer

/-- A command whose answer stands behind the width check and then the index check: three clauses, width before index. -/
theorem answersWith_of_checkIndex {i : Instr} {s : State} {w : SymWidth} {a d : Sym} {idx : BitVec 3}
    (h : answerOf s.grom i = checkWidth (fits a w) (checkIndex idx (widthNat w) (.ok d))) :
    (IsSymbol w a → idx.toNat < widthNat w → AnswersWith i s 0#2 d) ∧
    (¬ IsSymbol w a → AnswersWith i s 2#2 0#7) ∧
    (IsSymbol w a → ¬ idx.toNat < widthNat w → AnswersWith i s 3#2 0#7) := by
  have hanswer := answersWith_of_answerOf i s
  rw [h] at hanswer
  refine ⟨fun ha hidx => ?_, fun ha => ?_, fun ha hidx => ?_⟩
  · rwa [checkWidth_of_true ((fits_iff_lt a w).2 ha), checkIndex_of_lt hidx] at hanswer
  · rwa [checkWidth_of_false (Bool.eq_false_iff.2 (mt (fits_iff_lt a w).1 ha))] at hanswer
  · rwa [checkWidth_of_true ((fits_iff_lt a w).2 ha), checkIndex_of_not_lt hidx] at hanswer

/-- Two operands pass the width check exactly if both are symbols of the width (R56). -/
theorem fits_and_fits_iff (w : SymWidth) (a b : Sym) :
    (fits a w && fits b w) = true ↔ IsSymbol w a ∧ IsSymbol w b := by
  rw [Bool.and_eq_true, fits_iff_lt, fits_iff_lt]

/-! ### The functions bit by bit (R66 to R71) -/

theorem widthNat_le_seven (w : SymWidth) : widthNat w ≤ 7 := by
  cases w <;> decide

/-- A symbol of a width is a word without a bit at or above the width (R66). -/
theorem isSymbol_iff_getLsbD (w : SymWidth) (a : Sym) :
    IsSymbol w a ↔ ∀ j, widthNat w ≤ j → a.getLsbD j = false := by
  constructor
  · intro ha j hj
    exact Nat.testBit_lt_two_pow (Nat.lt_of_lt_of_le ha (Nat.pow_le_pow_right (by decide) hj))
  · exact fun h => Nat.lt_pow_two_of_testBit _ h

/-- The mask of a width has the bits below it (R68). -/
theorem getLsbD_widthMask (w : SymWidth) (j : Nat) : (widthMask w).getLsbD j = decide (j < widthNat w) := by
  have hw := widthNat_le_seven w
  rw [widthMask, BitVec.getLsbD_ofNat, Nat.testBit_two_pow_sub_one, Bool.and_eq_right_iff_imp]
  simp only [decide_eq_true_eq]
  omega

/-- The word with one bit set, at `i`. -/
theorem getLsbD_one_shiftLeft {i : Nat} (hi : i < 7) (j : Nat) : (1#7 <<< i).getLsbD j = decide (j = i) := by
  rw [← BitVec.twoPow_eq, BitVec.getLsbD_twoPow]
  simp [hi, eq_comm]

/-- A bit moved to position `i` is there and nowhere else. -/
theorem getLsbD_zextBit_shiftLeft {i : Nat} (hi : i < 7) (b : Bool) (j : Nat) :
    (zextBit b <<< i).getLsbD j = (decide (j = i) && b) := by
  cases b
  · have hzero : zextBit false = 0#7 := rfl
    simp [hzero]
  · have hone : zextBit true = 1#7 := rfl
    rw [hone, getLsbD_one_shiftLeft hi, Bool.and_true]

/-- The bit in data[0], the rest of the data 0 (R75). -/
theorem zextBit_eq_ite (b : Bool) : zextBit b = if b then 1#7 else 0#7 := by
  cases b <;> rfl

/-- bv_set replaces bit `i` and leaves every other bit as it was (R68). -/
theorem getLsbD_bvSet {w : SymWidth} {a : Sym} (ha : IsSymbol w a) {i : Nat} (hi : i < widthNat w) (v : Bool)
    (j : Nat) : (bvSet a i v w).getLsbD j = if j = i then v else a.getLsbD j := by
  have hi7 : i < 7 := Nat.lt_of_lt_of_le hi (widthNat_le_seven w)
  rw [bvSet, BitVec.getLsbD_or, BitVec.getLsbD_and, BitVec.getLsbD_and, BitVec.getLsbD_not,
    getLsbD_one_shiftLeft hi7, getLsbD_widthMask, getLsbD_zextBit_shiftLeft hi7]
  by_cases hji : j = i
  · simp [hji]
  · by_cases hj : j < widthNat w
    · have hj7 : j < 7 := Nat.lt_of_lt_of_le hj (widthNat_le_seven w)
      simp [hji, hj, hj7]
    · simp [hji, hj, (isSymbol_iff_getLsbD w a).1 ha j (Nat.le_of_not_lt hj)]

/-- bv_flip inverts bit `i` and leaves every other bit as it was (R71). -/
theorem getLsbD_bvFlip {i : Nat} (hi : i < 7) (a : Sym) (j : Nat) :
    (bvFlip a i).getLsbD j = if j = i then !(a.getLsbD j) else a.getLsbD j := by
  rw [bvFlip, BitVec.getLsbD_xor, getLsbD_one_shiftLeft hi]
  by_cases hji : j = i <;> simp [hji]

section Symbol

variable {w : SymWidth} {a : Sym} (ha : IsSymbol w a) {i : Nat} (hi : i < widthNat w)
include ha hi

theorem isSymbol_bvSet (v : Bool) : IsSymbol w (bvSet a i v w) := by
  rw [isSymbol_iff_getLsbD]
  intro j hj
  rw [getLsbD_bvSet ha hi, if_neg (by omega)]
  exact (isSymbol_iff_getLsbD w a).1 ha j hj

/-- Flipping a bit is setting it to its opposite (R71). -/
theorem bvFlip_eq_bvSet : bvFlip a i = bvSet a i (!(bvGet a i)) w := by
  apply BitVec.eq_of_getLsbD_eq
  intro j _
  rw [getLsbD_bvFlip (Nat.lt_of_lt_of_le hi (widthNat_le_seven w)), getLsbD_bvSet ha hi, bvGet]
  split
  · next hji => rw [hji]
  · rfl

theorem isSymbol_bvFlip : IsSymbol w (bvFlip a i) := by
  rw [bvFlip_eq_bvSet ha hi]
  exact isSymbol_bvSet ha hi _

end Symbol

/-! ### The ones of a symbol and the distance of two (R70, R72) -/

theorem bvPopcount_le_widthNat (a : Sym) (w : SymWidth) : bvPopcount a w ≤ widthNat w :=
  (List.length_filter_le ..).trans_eq List.length_range

/-- The distance of two symbols is the number of ones of their XOR (R72). -/
theorem hamming_eq_onesCount {w : SymWidth} {a b : Sym} (ha : IsSymbol w a) (hb : IsSymbol w b) :
    hamming a b w = onesCount (a ^^^ b) :=
  bvPopcount_eq_onesCount (isSymbol_xor ha hb)

theorem onesCount_eq_zero_iff (x : Sym) : onesCount x = 0 ↔ x = 0#7 := by
  revert x; decide

theorem onesCount_one_shiftLeft {i : Nat} (hi : i < 7) : onesCount (1#7 <<< i) = 1 := by
  revert i; decide

/-- A bit of an XOR is set only where one of the two has it set, so the ones of an XOR are no more than those of both. -/
theorem onesCount_xor_le (x y : Sym) : onesCount (x ^^^ y) ≤ onesCount x + onesCount y := by
  have hbit (j : Nat) : ((x ^^^ y).getLsbD j).toNat ≤ (x.getLsbD j).toNat + (y.getLsbD j).toNat := by
    rw [BitVec.getLsbD_xor]
    cases x.getLsbD j <;> cases y.getLsbD j <;> decide
  unfold onesCount
  linarith only [hbit 0, hbit 1, hbit 2, hbit 3, hbit 4, hbit 5, hbit 6]

section Distance

variable {w : SymWidth} {a b c : Sym} (ha : IsSymbol w a) (hb : IsSymbol w b) (hc : IsSymbol w c)
include ha

/-- Flipping one bit gives a symbol at distance 1 (R79). -/
theorem hamming_bvFlip {i : Nat} (hi : i < widthNat w) : hamming a (bvFlip a i) w = 1 := by
  rw [hamming_eq_onesCount ha (isSymbol_bvFlip ha hi), bvFlip, ← BitVec.xor_assoc, BitVec.xor_self, BitVec.zero_xor]
  exact onesCount_one_shiftLeft (Nat.lt_of_lt_of_le hi (widthNat_le_seven w))

include hb

theorem hamming_eq_zero_iff : hamming a b w = 0 ↔ a = b := by
  rw [hamming_eq_onesCount ha hb, onesCount_eq_zero_iff, BitVec.xor_eq_zero_iff]

include hc

/-- The triangle inequality: the bits in which a and c differ are among those in which b differs from one of them. -/
theorem hamming_triangle : hamming a c w ≤ hamming a b w + hamming b c w := by
  have hsplit : a ^^^ c = (a ^^^ b) ^^^ (b ^^^ c) := by
    rw [BitVec.xor_assoc, ← BitVec.xor_assoc b b c, BitVec.xor_self, BitVec.zero_xor]
  rw [hamming_eq_onesCount ha hc, hamming_eq_onesCount ha hb, hamming_eq_onesCount hb hc, hsplit]
  exact onesCount_xor_le ..

end Distance

/-! ### The statements of the family -/

/-- Settles O34: BXOR's result stands behind the width check of both operands. -/
theorem bxorAnswers : Obligations.BxorAnswers :=
  fun _ w a b => answersWith_of_checkWidth (fits_and_fits_iff w a b) rfl

/-- Settles O35: of a symbol of the width, the count below the width is the count of all seven bits. -/
theorem popcAnswers : Obligations.PopcAnswers := by
  intro s w a
  obtain ⟨hok, hwidth⟩ := answersWith_of_checkWidth (i := .popc w a) (s := s) (fits_iff_lt a w) rfl
  refine ⟨fun ha => ?_, hwidth⟩
  rw [← bvPopcount_eq_onesCount ha]
  exact hok ha

/-- Settles O36: the result behind the two checks is the bit, zero-extended. -/
theorem getbAnswers : Obligations.GetbAnswers := by
  intro s w a i
  rw [← zextBit_eq_ite]
  exact answersWith_of_checkIndex rfl

/-- Settles O37: the result behind the two checks is bv_set, read bit by bit. -/
theorem setbAnswers : Obligations.SetbAnswers := by
  intro s w a i v
  obtain ⟨hok, herrors⟩ := answersWith_of_checkIndex (i := .setb w a i v) (s := s) rfl
  exact ⟨fun ha hi => ⟨_, hok ha hi, fun j _ => getLsbD_bvSet ha hi v j⟩, herrors⟩

/-- Settles O38: the result behind the two checks is bv_flip, read bit by bit. -/
theorem flipbAnswers : Obligations.FlipbAnswers := by
  intro s w a i
  obtain ⟨hok, herrors⟩ := answersWith_of_checkIndex (i := .flipb w a i) (s := s) rfl
  exact ⟨fun ha hi => ⟨_, hok ha hi, fun j _ => getLsbD_bvFlip (Nat.lt_of_lt_of_le hi (widthNat_le_seven w)) a j⟩,
    herrors⟩

/-- Settles O39: HDIST's result stands behind the width check of both operands, and is the ones of their XOR. -/
theorem hdistAnswers : Obligations.HdistAnswers := by
  intro s w a b
  obtain ⟨hok, hwidth⟩ := answersWith_of_checkWidth (i := .hdist w a b) (s := s) (fits_and_fits_iff w a b) rfl
  refine ⟨fun ⟨ha, hb⟩ => ?_, hwidth⟩
  rw [← hamming_eq_onesCount ha hb]
  exact hok ⟨ha, hb⟩

/-- Settles O40: the xor laws are the library's, bit `i` is the one bv_set replaces, and the distance is the number of
ones of the XOR. -/
theorem bitVectorLaws : Obligations.BitVectorLaws := by
  intro w a b c i v ha hb hc hi
  refine ⟨BitVec.xor_self, BitVec.xor_zero, BitVec.xor_comm a b, BitVec.xor_assoc a b c, ?_, ?_,
    hamming_eq_zero_iff ha hb, hamming_triangle ha hb hc, hamming_bvFlip ha hi⟩
  · rw [bvFlip, bvFlip, BitVec.xor_assoc, BitVec.xor_self, BitVec.xor_zero]
  · rw [bvGet, getLsbD_bvSet ha hi, if_pos rfl]

/-- Settles O41: the symbols by their bits, the counts as lengths of sublists of the positions below the width. -/
theorem bitVectorResultsAreSymbols : Obligations.BitVectorResultsAreSymbols :=
  fun w a _ _ v ha hb hi => ⟨isSymbol_xor ha hb, isSymbol_bvSet ha hi v, isSymbol_bvFlip ha hi,
    bvPopcount_le_widthNat a w, bvPopcount_le_widthNat _ w, bvFlip_eq_bvSet ha hi⟩

end Sys2Proof.Machine
end

section
/-! PROOFS, the family of 41_generator.md. What GROW answers on each side of the bound of its index, and that the row it
reads is the codeword of a one-hot message, whatever GROM holds; then the theorems that settle the family's statements. -/

namespace Sys2Proof.Machine

/-! ### What GROW answers (R57, R81) -/

theorem growAnswer_of_lt {idx : BitVec 3} (hidx : idx.toNat < 4) (g : Grom) :
    growAnswer g idx = .ok (g.row idx.toNat) :=
  checkIndex_of_lt hidx _

theorem growAnswer_of_not_lt {idx : BitVec 3} (hidx : ¬ idx.toNat < 4) (g : Grom) :
    growAnswer g idx = .error .indexOutOfRange :=
  checkIndex_of_not_lt hidx _

theorem answersWith_grow_of_lt {idx : BitVec 3} (hidx : idx.toNat < 4) (s : State) :
    AnswersWith (.grow idx) s 0#2 (s.grom.row idx.toNat) := by
  have hanswer := answersWith_of_answerOf (.grow idx) s
  rwa [answerOf, growAnswer_of_lt hidx] at hanswer

theorem answersWith_grow_of_not_lt {idx : BitVec 3} (hidx : ¬ idx.toNat < 4) (s : State) :
    AnswersWith (.grow idx) s 3#2 0#7 := by
  have hanswer := answersWith_of_answerOf (.grow idx) s
  rwa [answerOf, growAnswer_of_not_lt hidx] at hanswer

/-! ### What ENC answers for a one-hot message (R85, R88) -/

/-- The word with one bit set below bit 4 is a symbol of width 4 (R56). -/
theorem fits_one_shiftLeft {j : Nat} (hj : j < 4) : fits (1#7 <<< j) .w4 = true := by
  revert j; decide

theorem lowNibble_one_shiftLeft {j : Nat} (hj : j < 4) : lowNibble (1#7 <<< j) = 1#4 <<< j := by
  revert j; decide

/-- A one-hot message is encoded as its row: every other term of the sum is 0 (R84, R88). -/
theorem encodeMsg_one_shiftLeft (g : Grom) {i : Nat} (hi : i < 4) : encodeMsg g (1#4 <<< (3 - i)) = g.row i := by
  rw [encodeMsg_eq]
  match i, hi with
  | 0, _ => simp [Grom.row]
  | 1, _ => simp [Grom.row]
  | 2, _ => simp [Grom.row]
  | 3, _ => simp [Grom.row]

/-- ENC of a one-hot message passes the width check and gives that message's row. -/
theorem encAnswer_one_shiftLeft (g : Grom) {i : Nat} (hi : i < 4) : encAnswer g (1#7 <<< (3 - i)) = .ok (g.row i) := by
  have hj : 3 - i < 4 := by omega
  rw [encAnswer, checkWidth_of_true (fits_one_shiftLeft hj), lowNibble_one_shiftLeft hj, encodeMsg_one_shiftLeft g hi]

/-! ### The statements of the family -/

/-- Settles O43: the answers to GROW i and to ENC of the i-th one-hot message are both row i. -/
theorem growIsEncOfOneHot : Obligations.GrowIsEncOfOneHot := by
  intro s i hi
  rw [exec_eq_finish, exec_eq_finish, answerOf, answerOf, growAnswer_of_lt hi, encAnswer_one_shiftLeft s.grom hi]

/-- Settles O42: the four indices below the bound give their rows, the others fail the index check. -/
theorem growAnswers : Obligations.GrowAnswers := fun s =>
  ⟨answersWith_grow_of_lt (by decide) s, answersWith_grow_of_lt (by decide) s, answersWith_grow_of_lt (by decide) s,
    answersWith_grow_of_lt (by decide) s, fun _ hi => answersWith_grow_of_not_lt (Nat.not_lt.2 hi) s⟩

end Sys2Proof.Machine
end

section
/-! PROOFS, the family of 42_encoder.md. encode is a sum over GF(2), so it is linear and each bit of a codeword is a sum
of message bits; what ENC answers on each side of its width check; the responses to a stream's commands, one by one; then
the theorems that settle the family's statements. -/

namespace Sys2Proof.Machine

/-! ### encode as a sum over GF(2) (R84, R86, R88) -/

/-- A row taken for the sum of two bits is the sum of the row taken for each. -/
theorem ite_bxor_zero (p q : Bool) (r : Sym) :
    (if (p ^^ q) = true then r else 0#7) = (if p = true then r else 0#7) ^^^ (if q = true then r else 0#7) := by
  cases p <;> cases q <;> simp

/-- encode is linear, whatever GROM holds (R86). -/
theorem encodeMsg_xor (g : Grom) (a b : Msg) : encodeMsg g (a ^^^ b) = encodeMsg g a ^^^ encodeMsg g b := by
  simp only [encodeMsg_eq, BitVec.getLsbD_xor, ite_bxor_zero]
  ac_rfl

@[simp] theorem encodeMsg_zero (g : Grom) : encodeMsg g 0#4 = 0#7 := by
  simp [encodeMsg_eq]

theorem getLsbD_ite_zero (p : Bool) (r : Sym) (j : Nat) :
    (if p = true then r else 0#7).getLsbD j = (p && r.getLsbD j) := by
  cases p <;> simp

/-- Each bit of a codeword is the product of the message with a column of GROM. -/
theorem getLsbD_encodeMsg (g : Grom) (m : Msg) (j : Nat) :
    (encodeMsg g m).getLsbD j =
      ((m.getLsbD 3 && g.row0.getLsbD j) ^^ (m.getLsbD 2 && g.row1.getLsbD j) ^^
       (m.getLsbD 1 && g.row2.getLsbD j) ^^ (m.getLsbD 0 && g.row3.getLsbD j)) := by
  simp only [encodeMsg_eq, BitVec.getLsbD_xor, getLsbD_ite_zero, Bool.xor_assoc]

/-- With GROM's values the codewords of distinct messages are distinct: the message is read back from its codeword. -/
theorem encodeMsg_rom_injective : Function.Injective (encodeMsg Grom.rom) :=
  Function.LeftInverse.injective extractMsg_encodeMsg_rom

/-- A codeword without a flip decodes to its message (R97, R98). -/
theorem decodeSym_encodeMsg_rom (m : Msg) : decodeSym (encodeMsg Grom.rom m) = m := by
  have hdec : decodeSym (encodeMsg Grom.rom m ^^^ 0#7) = m := (decodeSym_encodeMsg_xor_iff m 0#7).2 (by decide)
  rwa [BitVec.xor_zero] at hdec

/-! ### What ENC answers (R55, R56, R85) -/

theorem getLsbD_lowNibble (a : Sym) {j : Nat} (hj : j < 4) : (lowNibble a).getLsbD j = a.getLsbD j := by
  simp [lowNibble, hj]

/-- The low nibble of a message in its operand field is the message (R53, R55). -/
@[simp] theorem lowNibble_setWidth (m : Msg) : lowNibble (m.setWidth 7) = m := by
  apply BitVec.eq_of_getLsbD_eq
  intro j hj
  rw [getLsbD_lowNibble _ hj, BitVec.getLsbD_setWidth, decide_eq_true (by omega), Bool.true_and]

theorem encAnswer_of_isSymbol {a : Sym} (ha : IsSymbol .w4 a) (g : Grom) :
    encAnswer g a = .ok (encodeMsg g (lowNibble a)) :=
  checkWidth_of_true ((fits_iff_lt a .w4).2 ha) _

theorem encAnswer_message (g : Grom) (m : Msg) : encAnswer g (m.setWidth 7) = .ok (encodeMsg g m) := by
  rw [encAnswer_of_isSymbol (isSymbol_setWidth m), lowNibble_setWidth]

/-- ENC's two clauses, on either side of the width check (R85). -/
theorem answersWith_enc (s : State) (a : Sym) :
    (IsSymbol .w4 a → AnswersWith (.enc a) s 0#2 (encodeMsg s.grom (lowNibble a))) ∧
    (¬ IsSymbol .w4 a → AnswersWith (.enc a) s 2#2 0#7) :=
  answersWith_of_checkWidth (fits_iff_lt a .w4) rfl

theorem answersWith_enc_message (s : State) (m : Msg) :
    AnswersWith (.enc (m.setWidth 7)) s 0#2 (encodeMsg s.grom m) := by
  have hanswer := (answersWith_enc s (m.setWidth 7)).1 (isSymbol_setWidth m)
  rwa [lowNibble_setWidth] at hanswer

/-! ### The responses to the commands of a stream (R65, R89, R99) -/

theorem wordResponse_enc_message (g : Grom) (m : Msg) :
    wordResponse g (encode (.enc (m.setWidth 7))) = ⟨0#2, encodeMsg g m⟩ := by
  rw [wordResponse_of_decode (decodeOfEncode _), answerOf, encAnswer_message, responseOf, statusOk]

theorem wordResponse_dec (g : Grom) (c : Sym) :
    wordResponse g (encode (.dec c)) = ⟨0#2, (decodeSym c).setWidth 7⟩ := by
  rw [wordResponse_of_decode (decodeOfEncode _), answerOf, decAnswer, responseOf, statusOk]

/-! ### The table of codewords (R87) -/

/-- What a row of R87's table (operand, codeword, weight, ENC word) has to satisfy, apart from any state. -/
abbrev IsEncTableRow (a c : Sym) (weight : Nat) (w : Word) : Prop :=
  IsSymbol .w4 a ∧ w = encode (.enc a) ∧ c = encodeMsg Grom.rom (lowNibble a) ∧ onesCount c = weight

/-- A row of the table is what the decoder and ENC give for it. -/
theorem IsEncTableRow.answers {a c : Sym} {weight : Nat} {w : Word} (h : IsEncTableRow a c weight w) {s : State}
    (hgrom : s.GromFixed) :
    decodeWord w = .ok (.enc a) ∧ AnswersWith (.enc a) s 0#2 c ∧ onesCount c = weight := by
  obtain ⟨ha, rfl, rfl, hweight⟩ := h
  have hanswer := (answersWith_enc s a).1 ha
  rw [hgrom] at hanswer
  exact ⟨decodeOfEncode _, hanswer, hweight⟩

/-! ### The statements of the family -/

/-- Settles O45: ENC's two clauses, with the sum of R84 over the bits of the operand. -/
theorem encAnswers : Obligations.EncAnswers := by
  intro s a
  obtain ⟨hok, hwide⟩ := answersWith_enc s a
  simp only [encodeMsg_eq, getLsbD_lowNibble, Nat.reduceLT] at hok
  exact ⟨hok, fun ha => hwide (Nat.not_lt.2 ha)⟩

/-- Settles O46: the bits of the codeword from the columns of GROM, the one-hot messages from its rows. -/
theorem encIsSystematic : Obligations.EncIsSystematic := by
  intro s m hgrom
  refine ⟨_, rfl, answersWith_enc_message s m, ?_, ?_, ?_, ?_, ?_, ?_, ?_, fun i => encodeMsg_one_shiftLeft s.grom⟩
  all_goals
    rw [hgrom, getLsbD_encodeMsg]
    simp [Grom.rom, Bool.xor_comm]

/-- Settles O47: encode is a sum over GF(2) of rows taken by the message's bits. -/
theorem encodeIsLinear : Obligations.EncodeIsLinear :=
  fun g a b => ⟨encodeMsg_xor g a b, encodeMsg_zero g⟩

/-- Settles O57: the streams' commands are answered one by one, and a codeword decodes to its message. -/
theorem streamRoundTrip : Obligations.StreamRoundTrip := by
  intro ms
  constructor
  · simp only [encodeStream, List.map_map, Function.comp_def, wordResponse_enc_message]
  · simp only [decodeStream, List.map_map, Function.comp_def, wordResponse_dec, decodeSym_encodeMsg_rom]

/-- Settles O48: each row of the table apart from the state, distinctness by reading the message back, and the weights by
counting the 16 codewords. -/
theorem encodeTable : Obligations.EncodeTable := by
  intro s hgrom
  refine ⟨fun p hp => IsEncTableRow.answers ?_ hgrom, ?_, ?_⟩
  · revert p
    decide
  · rw [hgrom]
    exact fun _ _ h => encodeMsg_rom_injective h
  · rw [hgrom]
    decide

end Sys2Proof.Machine
end

section
/-! PROOFS, the family of 43_decoder.md. The syndrome as parity sums, the pattern that correct flips for a syndrome, and
the words as codewords with such a pattern, one for each message and syndrome; then the theorems that settle the family's
statements. -/

namespace Sys2Proof.Machine

/-! ### The syndrome as parity sums (R90) -/

/-- Bit `j` of what a set bit adds to the syndrome is bit `j` of its 1-based position. -/
theorem getLsbD_syndromeTerm (r : Sym) (i : Nat) {j : Nat} (hj : j < 3) :
    (syndromeTerm r i).getLsbD j = (r.getLsbD i && (i + 1).testBit j) := by
  unfold syndromeTerm
  cases r.getLsbD i
  · simp
  · simp [BitVec.getLsbD_ofNat, hj, -BitVec.getLsbD_eq_getElem]

theorem syndrome_eq_xor_terms (r : Sym) :
    syndrome r = syndromeTerm r 0 ^^^ syndromeTerm r 1 ^^^ syndromeTerm r 2 ^^^ syndromeTerm r 3 ^^^
      syndromeTerm r 4 ^^^ syndromeTerm r 5 ^^^ syndromeTerm r 6 := by
  simp only [syndrome, List.foldl, syndromeRound_eq, BitVec.zero_xor]

/-- Each bit of the syndrome is the parity of the ones at the positions that have this bit. -/
theorem syndrome_eq_parities (r : Sym) :
    syndrome r =
      BitVec.ofBool (r.getLsbD 3 ^^ r.getLsbD 4 ^^ r.getLsbD 5 ^^ r.getLsbD 6) ++
      BitVec.ofBool (r.getLsbD 1 ^^ r.getLsbD 2 ^^ r.getLsbD 5 ^^ r.getLsbD 6) ++
      BitVec.ofBool (r.getLsbD 0 ^^ r.getLsbD 2 ^^ r.getLsbD 4 ^^ r.getLsbD 6) := by
  have hbits : ∀ y : Syndrome,
      y = BitVec.ofBool (y.getLsbD 2) ++ BitVec.ofBool (y.getLsbD 1) ++ BitVec.ofBool (y.getLsbD 0) := by decide
  rw [hbits (syndrome r)]
  simp [syndrome_eq_xor_terms, getLsbD_syndromeTerm, Nat.testBit, -BitVec.getLsbD_eq_getElem]

/-- Three bits zero-extended to a response's data. -/
theorem setWidth_threeBits (p q r : Bool) :
    (BitVec.ofBool p ++ BitVec.ofBool q ++ BitVec.ofBool r).setWidth 7 =
      0#4 ++ BitVec.ofBool p ++ BitVec.ofBool q ++ BitVec.ofBool r := by
  revert p q r; decide

/-! ### The syndromes of one flip and of two (R91) -/

theorem syndrome_one_shiftLeft {j : Nat} (hj : j < 7) : syndrome (1#7 <<< j) = BitVec.ofNat 3 (j + 1) := by
  revert j; decide

theorem ofNat_succ_inj {i j : Nat} (hi : i < 7) (hj : j < 7) (h : BitVec.ofNat 3 (i + 1) = BitVec.ofNat 3 (j + 1)) :
    i = j := by
  bv_omega

theorem ofNat_succ_ne_zero {j : Nat} (hj : j < 7) : BitVec.ofNat 3 (j + 1) ≠ 0#3 := by
  bv_omega

/-- A codeword has no part in the syndrome of what is flipped in it. -/
theorem syndrome_encodeMsg_rom_xor (m : Msg) (e : Sym) : syndrome (encodeMsg Grom.rom m ^^^ e) = syndrome e := by
  rw [syndrome_xor, syndrome_encodeMsg_rom, BitVec.zero_xor]

/-- The XOR of two different nonzero words is nonzero and neither of them. -/
theorem xor_ne_of_ne {n : Nat} {x y : BitVec n} (hx : x ≠ 0#n) (hy : y ≠ 0#n) (hxy : x ≠ y) :
    x ^^^ y ≠ 0#n ∧ x ^^^ y ≠ x ∧ x ^^^ y ≠ y := by
  simp [hx, hy, hxy]

/-! ### The pattern that correct flips (R92) -/

/-- The pattern that correct flips for a syndrome: none for 0, else the bit before the position the syndrome names. -/
def correction (y : Syndrome) : Sym := if y = 0#3 then 0#7 else 1#7 <<< (y.toNat - 1)

theorem correct_eq_xor_correction (r : Sym) : correct r = r ^^^ correction (syndrome r) := by
  unfold correct correction
  by_cases h : syndrome r = 0#3 <;> simp [h]

theorem pred_toNat_lt_seven (y : Syndrome) : y.toNat - 1 < 7 := by
  omega

/-- The pattern of a syndrome has this syndrome, so correct undoes it. -/
theorem syndrome_correction (y : Syndrome) : syndrome (correction y) = y := by
  revert y; decide

theorem onesCount_correction_le_one (y : Syndrome) : onesCount (correction y) ≤ 1 := by
  unfold correction
  split
  · decide
  · exact (onesCount_one_shiftLeft (pred_toNat_lt_seven y)).le

theorem correct_of_syndrome_zero {r : Sym} (h : syndrome r = 0#3) : correct r = r := by
  simp [correct, h]

theorem correct_of_syndrome_ne_zero {r : Sym} (h : syndrome r ≠ 0#3) :
    correct r = bvFlip r ((syndrome r).toNat - 1) := by
  simp [correct, bvFlip, h]

/-- Every word is corrected to the codeword of the message it decodes to (R92, R94). -/
theorem correct_eq_encodeMsg_decodeSym (r : Sym) : correct r = encodeMsg Grom.rom (decodeSym r) :=
  (decodeSym_eq_iff r _).1 rfl

/-! ### The words by message and syndrome (R91, R97) -/

/-- The codeword of `m` with the pattern of `y` flipped: the one word that decodes to `m` and has syndrome `y`. -/
def received (m : Msg) (y : Syndrome) : Sym := encodeMsg Grom.rom m ^^^ correction y

@[simp] theorem syndrome_received (m : Msg) (y : Syndrome) : syndrome (received m y) = y := by
  rw [received, syndrome_encodeMsg_rom_xor, syndrome_correction]

@[simp] theorem decodeSym_received (m : Msg) (y : Syndrome) : decodeSym (received m y) = m :=
  (decodeSym_encodeMsg_xor_iff m _).2 (onesCount_correction_le_one y)

theorem received_decodeSym_syndrome (r : Sym) : received (decodeSym r) (syndrome r) = r := by
  rw [received, ← correct_eq_encodeMsg_decodeSym, correct_eq_xor_correction, BitVec.xor_assoc, BitVec.xor_self,
    BitVec.xor_zero]

/-- The words of one syndrome, one for each message. -/
theorem syndrome_eq_iff (r : Sym) (y : Syndrome) : syndrome r = y ↔ ∃ m, received m y = r := by
  constructor
  · rintro rfl
    exact ⟨_, received_decodeSym_syndrome r⟩
  · rintro ⟨m, rfl⟩
    exact syndrome_received m y

/-- The words that decode to one message, one for each syndrome. -/
theorem decodeSym_eq_iff_received (r : Sym) (m : Msg) : decodeSym r = m ↔ ∃ y, received m y = r := by
  constructor
  · rintro rfl
    exact ⟨_, received_decodeSym_syndrome r⟩
  · rintro ⟨y, rfl⟩
    exact decodeSym_received m y

/-- The values of an injective function of `k` bits are 2^k of the 128 words. -/
theorem length_filter_range_of_injective {k : Nat} {f : BitVec k → Sym} (hf : Function.Injective f) {p : Sym → Prop}
    [DecidablePred p] (hp : ∀ r, p r ↔ ∃ x, f x = r) :
    ((List.range 128).filter (fun n => p (BitVec.ofNat 7 n))).length = 2 ^ k := by
  have hperm : ((List.range 128).filter (fun n => p (BitVec.ofNat 7 n))).Perm
      ((List.range (2 ^ k)).map (fun n => (f (BitVec.ofNat k n)).toNat)) := by
    rw [List.perm_ext_iff_of_nodup (List.nodup_range.filter _)]
    · intro n
      simp only [List.mem_filter, List.mem_range, decide_eq_true_eq, hp, List.mem_map]
      constructor
      · rintro ⟨hn, x, hx⟩
        exact ⟨x.toNat, x.isLt, by simp [hx, Nat.mod_eq_of_lt hn]⟩
      · rintro ⟨x, -, rfl⟩
        exact ⟨BitVec.isLt _, BitVec.ofNat k x, by simp⟩
    · refine List.Nodup.map_on (fun x hx y hy hxy => ?_) List.nodup_range
      have hword := congrArg BitVec.toNat (hf (BitVec.eq_of_toNat_eq hxy))
      rwa [BitVec.toNat_ofNat, BitVec.toNat_ofNat, Nat.mod_eq_of_lt (List.mem_range.1 hx),
        Nat.mod_eq_of_lt (List.mem_range.1 hy)] at hword
  rw [hperm.length_eq, List.length_map, List.length_range]

/-! ### What SYND and DEC answer (R95, R96) -/

theorem answersWith_synd (s : State) (a : Sym) : AnswersWith (.synd a) s 0#2 ((syndrome a).setWidth 7) :=
  answersWith_of_answerOf (.synd a) s

theorem answersWith_dec (s : State) (a : Sym) : AnswersWith (.dec a) s 0#2 ((decodeSym a).setWidth 7) :=
  answersWith_of_answerOf (.dec a) s

/-- DEC of a word that decodes to `m` answers `m`, as a next state and its response. -/
theorem exec_dec_of_decodeSym {a : Sym} {m : Msg} (h : decodeSym a = m) (s : State) :
    ∃ t : State, exec (.dec a) s = .next t ∧ t.rspStatus = 0#2 ∧ t.rspData = m.setWidth 7 :=
  ⟨_, answersWith_dec s a, rfl, by rw [h]⟩

/-- FLIPB.7 of any word at a bit below 7 answers the word with this bit flipped (R77). -/
theorem answersWith_flipb_w7 (s : State) (a : Sym) {i : BitVec 3} (hi : i.toNat < 7) :
    AnswersWith (.flipb .w7 a i) s 0#2 (bvFlip a i.toNat) := by
  obtain ⟨hok, -⟩ := answersWith_of_checkIndex (i := .flipb .w7 a i) (s := s) (w := .w7) rfl
  exact hok a.isLt hi

/-- A codeword with one bit flipped decodes to its message (R98). -/
theorem decodeSym_bvFlip_encodeMsg_rom (m : Msg) {i : Nat} (hi : i < 7) :
    decodeSym (bvFlip (encodeMsg Grom.rom m) i) = m :=
  (decodeSym_encodeMsg_xor_iff m _).2 (onesCount_one_shiftLeft hi).le

/-! ### The statements of the family -/

/-- Settles O49: SYND's data is the syndrome, whose bits are the parity sums. -/
theorem syndAnswers : Obligations.SyndAnswers := by
  intro s a
  rw [← setWidth_threeBits, ← syndrome_eq_parities]
  exact answersWith_synd s a

/-- Settles O50: the syndrome is linear and 0 on codewords, so it is that of the flips; and the words of one syndrome are
one for each message. -/
theorem syndromeProperties : Obligations.SyndromeProperties := by
  intro s hgrom
  rw [hgrom]
  refine ⟨syndrome_xor, syndrome_encodeMsg_rom, fun m j hj => ⟨?_, ofNat_succ_ne_zero hj⟩,
    fun m i j hi hj hij => ⟨?_, ?_⟩, fun y => ?_⟩
  · rw [syndrome_encodeMsg_rom_xor, syndrome_one_shiftLeft hj]
  · rw [syndrome_xor, syndrome_encodeMsg_rom_xor, syndrome_one_shiftLeft hi, syndrome_one_shiftLeft hj]
  · exact xor_ne_of_ne (ofNat_succ_ne_zero hi) (ofNat_succ_ne_zero hj) (mt (ofNat_succ_inj hi hj) hij)
  · exact length_filter_range_of_injective (f := fun m => received m y)
      (Function.LeftInverse.injective (g := decodeSym) fun m => decodeSym_received m y) fun r => syndrome_eq_iff r y

/-- Settles O51: the two branches of correct, and the codeword it gives. -/
theorem correctGivesCodeword : Obligations.CorrectGivesCodeword := by
  intro s r hgrom
  rw [hgrom]
  exact ⟨correct_of_syndrome_zero, fun hsyn => ⟨pred_toNat_lt_seven _, correct_of_syndrome_ne_zero hsyn⟩,
    syndrome_correct r, _, correct_eq_encodeMsg_decodeSym r⟩

/-- Settles O52: the codeword of the decoded message differs from the word by what correct flips; a word is the codeword of
any message with their difference flipped; and the words that decode to one message are one for each syndrome. -/
theorem decAnswers : Obligations.DecAnswers := by
  refine ⟨fun s a => ⟨answersWith_dec s a, ?_, fun m hm => ?_⟩, fun m => ?_, fun m e he hdec => ?_⟩
  · have hdiff : encodeMsg Grom.rom (decodeSym a) ^^^ a = correction (syndrome a) := by
      rw [← correct_eq_encodeMsg_decodeSym, correct_eq_xor_correction, BitVec.xor_comm, ← BitVec.xor_assoc,
        BitVec.xor_self, BitVec.zero_xor]
    rw [hdiff]
    exact onesCount_correction_le_one _
  · have hword : encodeMsg Grom.rom m ^^^ (encodeMsg Grom.rom m ^^^ a) = a := by
      rw [← BitVec.xor_assoc, BitVec.xor_self, BitVec.zero_xor]
    have hdec := (decodeSym_encodeMsg_xor_iff m _).2 hm
    rw [hword] at hdec
    exact hdec.symm
  · exact length_filter_range_of_injective (f := received m)
      (Function.LeftInverse.injective (g := syndrome) (syndrome_received m)) fun r => decodeSym_eq_iff_received r m
  · have hle := (decodeSym_encodeMsg_xor_iff m e).1 hdec
    omega

/-- Settles O53: each command is fed the response before it, and both the codeword and the flipped one decode to the
message. -/
theorem roundTripAndSingleError : Obligations.RoundTripAndSingleError := by
  intro s m i hgrom hi
  have henc := answersWith_enc_message s m
  rw [hgrom] at henc
  obtain ⟨t₂, hdec₂, hstatus₂, hdata₂⟩ := exec_dec_of_decodeSym (decodeSym_encodeMsg_rom m) _
  obtain ⟨t₄, hdec₄, hresponse₄⟩ := exec_dec_of_decodeSym (decodeSym_bvFlip_encodeMsg_rom m hi) _
  exact ⟨_, t₂, _, t₄, henc, hdec₂, hstatus₂, hdata₂, answersWith_flipb_w7 _ _ hi, hdec₄, hresponse₄⟩

end Sys2Proof.Machine
end

section
/-! PROOFS, the family of 44_distance.md. minDistance is the least distance of two distinct messages' codewords,
whatever GROM holds; the distance of two codewords is the weight of a third, so the weights of R87 give the distances and
how many pairs have each; then the theorems that settle the family's statements. -/

namespace Sys2Proof.Machine

/-! ### minDistance is the least distance of two codewords (R100) -/

@[simp] theorem length_codewords (g : Grom) : (codewords g).length = 16 := by
  simp [codewords]

theorem getElem_codewords (g : Grom) {i : Nat} (hi : i < (codewords g).length) :
    (codewords g)[i] = encodeMsg g (BitVec.ofNat 4 i) := by
  simp [codewords]

theorem hamming_w7_eq_onesCount (c d : Sym) : hamming c d .w7 = onesCount (c ^^^ d) :=
  hamming_eq_onesCount c.isLt d.isLt

theorem minDistance_le_seven (g : Grom) : minDistance g ≤ 7 :=
  (minOverPairs_spec (codewords g) 7).1

/-- The enumeration meets a pair of messages in ascending order. -/
theorem minDistance_le_of_toNat_lt (g : Grom) {a b : Msg} (hab : a.toNat < b.toNat) :
    minDistance g ≤ onesCount (encodeMsg g a ^^^ encodeMsg g b) := by
  obtain ⟨-, hpairs, -⟩ := minOverPairs_spec (codewords g) 7
  have hle := List.pairwise_iff_getElem.1 hpairs a.toNat b.toNat (by simp [a.isLt]) (by simp [b.isLt]) hab
  rwa [getElem_codewords, getElem_codewords, BitVec.ofNat_toNat, BitVec.ofNat_toNat, BitVec.setWidth_eq,
    BitVec.setWidth_eq, hamming_w7_eq_onesCount] at hle

/-- No two distinct messages' codewords are closer than minDistance: one of the two orders is the enumeration's. -/
theorem minDistance_le (g : Grom) {a b : Msg} (hab : a ≠ b) :
    minDistance g ≤ onesCount (encodeMsg g a ^^^ encodeMsg g b) := by
  rcases Nat.lt_or_gt_of_ne (mt BitVec.eq_of_toNat_eq hab) with hlt | hgt
  · exact minDistance_le_of_toNat_lt g hlt
  · rw [BitVec.xor_comm]
    exact minDistance_le_of_toNat_lt g hgt

/-- Some pair is at distance minDistance: the pair that lowered the starting value last, or any pair if none did, since
no distance is above 7. -/
theorem exists_distance_eq_minDistance (g : Grom) :
    ∃ a b : Msg, a ≠ b ∧ onesCount (encodeMsg g a ^^^ encodeMsg g b) = minDistance g := by
  obtain ⟨-, -, hstart | ⟨i, j, hij, hj, hpair⟩⟩ := minOverPairs_spec (codewords g) 7
  · have hlower := minDistance_le g (a := 0#4) (b := 1#4) (by decide)
    have hupper := bvPopcount_le_widthNat (bvXor (encodeMsg g 0#4) (encodeMsg g 1#4)) .w7
    refine ⟨0#4, 1#4, by decide, le_antisymm ?_ hlower⟩
    rw [← hamming_w7_eq_onesCount]
    exact hupper.trans_eq hstart.symm
  · rw [length_codewords] at hj
    refine ⟨BitVec.ofNat 4 i, BitVec.ofNat 4 j, by bv_omega, ?_⟩
    rw [getElem_codewords, getElem_codewords, hamming_w7_eq_onesCount] at hpair
    exact hpair.symm

theorem answersWith_mdist (s : State) : AnswersWith .mdist s 0#2 (BitVec.ofNat 7 (minDistance s.grom)) :=
  answersWith_of_answerOf .mdist s

/-! ### The distances are the weights of the nonzero messages' codewords (R86, R102) -/

/-- The distance of two messages' codewords is the weight of the codeword of their XOR. -/
theorem distance_eq_weight (g : Grom) (a b : Msg) :
    onesCount (encodeMsg g a ^^^ encodeMsg g b) = onesCount (encodeMsg g (a ^^^ b)) := by
  rw [encodeMsg_xor]

/-- The weights of R87's table, but for that of message 0. -/
theorem weight_mem_of_ne_zero {m : Msg} (hm : m ≠ 0#4) : onesCount (encodeMsg Grom.rom m) ∈ [3, 4, 7] := by
  revert m; decide

theorem three_le_weight_of_ne_zero {m : Msg} (hm : m ≠ 0#4) : 3 ≤ onesCount (encodeMsg Grom.rom m) := by
  have hbound : ∀ n ∈ [3, 4, 7], 3 ≤ n := by decide
  exact hbound _ (weight_mem_of_ne_zero hm)

theorem distance_mem_of_ne {a b : Msg} (hab : a ≠ b) :
    onesCount (encodeMsg Grom.rom a ^^^ encodeMsg Grom.rom b) ∈ [3, 4, 7] := by
  rw [distance_eq_weight]
  exact weight_mem_of_ne_zero (mt BitVec.xor_eq_zero_iff.1 hab)

/-- The minimum distance is the least nonzero weight: 3, that of message 2 (R87). -/
theorem minDistance_rom : minDistance Grom.rom = 3 := by
  apply le_antisymm
  · exact minDistance_le Grom.rom (a := 2#4) (b := 0#4) (by decide) |>.trans_eq (by decide)
  · obtain ⟨a, b, hab, hdist⟩ := exists_distance_eq_minDistance Grom.rom
    rw [← hdist, distance_eq_weight]
    exact three_le_weight_of_ne_zero (mt BitVec.xor_eq_zero_iff.1 hab)

/-! ### How many pairs are at each distance (R102) -/

/-- The XORs of the 120 unordered pairs of distinct messages. -/
def messageXors : List Msg :=
  (List.range 16).flatMap fun a => (List.range a).map fun b => BitVec.ofNat 4 a ^^^ BitVec.ofNat 4 b

/-- Each nonzero message is the XOR of 8 pairs, and 0 of none: with 8 more zeros the XORs are each message 8 times. -/
theorem messageXors_perm :
    (List.replicate 8 0#4 ++ messageXors).Perm (List.replicate 8 ((List.range 16).map (BitVec.ofNat 4))).flatten := by
  decide

theorem countP_messageXors {p : Msg → Bool} (hzero : p 0#4 = false) :
    messageXors.countP p = 8 * (List.range 16).countP (fun n => p (BitVec.ofNat 4 n)) := by
  have hcount := messageXors_perm.countP_eq p
  rw [List.countP_append, List.countP_replicate, hzero, List.countP_flatten, List.map_replicate, List.sum_replicate,
    List.countP_map] at hcount
  simpa [Function.comp_def] using hcount

/-- Of the unordered pairs of messages, 8 times as many have their codewords at a distance as codewords have it as their
weight, whatever GROM holds. -/
theorem length_pairs_at_distance (g : Grom) {d : Nat} (hd : d ≠ 0) :
    ((List.range 16).flatMap (fun a => (List.range a).filter (fun b =>
      onesCount (encodeMsg g (BitVec.ofNat 4 a) ^^^ encodeMsg g (BitVec.ofNat 4 b)) = d))).length =
    8 * ((List.range 16).filter (fun n => onesCount (encodeMsg g (BitVec.ofNat 4 n)) = d)).length := by
  have hzero : decide (onesCount (encodeMsg g 0#4) = d) = false := by
    rw [encodeMsg_zero]
    exact decide_eq_false hd.symm
  have hcount := countP_messageXors (p := fun m => decide (onesCount (encodeMsg g m) = d)) hzero
  simpa only [messageXors, List.countP_flatMap, List.countP_map, List.length_flatMap, ← List.countP_eq_length_filter,
    distance_eq_weight, Function.comp_def] using hcount

/-! ### The statements of the family -/

/-- Settles O54: the number is minDistance. -/
theorem mdistAnswers : Obligations.MdistAnswers :=
  fun s => ⟨minDistance s.grom, answersWith_mdist s, minDistance_le_seven s.grom, fun _ _ => minDistance_le s.grom,
    exists_distance_eq_minDistance s.grom⟩

/-- Settles O55: the distances are weights of nonzero messages' codewords, and each weight's codewords, counted in
R87's table, stand for 8 times as many pairs. -/
theorem mdistIsThree : Obligations.MdistIsThree := by
  intro s hgrom
  have hanswer := answersWith_mdist s
  obtain ⟨-, -, hweights⟩ := encodeTable s hgrom
  rw [hgrom] at hanswer hweights ⊢
  rw [minDistance_rom] at hanswer
  refine ⟨hanswer, minDistance_rom, fun _ _ => distance_mem_of_ne, fun p hp => ?_,
    fun a b => ⟨a ^^^ b, (encodeMsg_xor _ a b).symm⟩, fun _ => three_le_weight_of_ne_zero,
    2#4, by decide, by decide⟩
  obtain ⟨q, hq, hweight, rfl⟩ : ∃ q ∈ [(0, 1), (3, 7), (4, 7), (7, 1)], q.1 ≠ 0 ∧ (q.1, 8 * q.2) = p := by
    revert p; decide
  exact (length_pairs_at_distance _ hweight).trans (congrArg (8 * ·) (hweights q hq))

end Sys2Proof.Machine
end

section
/-! PROOFS, the family of 60_exceptions.md. What an edge appends to the fault record, and which error a command reports
by the checks its answer stands behind; then the theorems that settle the family's statements. -/

namespace Sys2Proof.Machine

/-! ### The fault record (R116) -/

/-- A response taken adds its status to the fault record, unless it is OK. -/
theorem takeResponse_faultRecord_eq_append (s : State) :
    s.takeResponse.faultRecord = s.faultRecord ++ (if s.rspStatus != 0#2 then [s.rspStatus] else []) := by
  rw [State.takeResponse_faultRecord]
  by_cases hok : s.rspStatus = 0#2 <;> simp [statusOk, hok]

/-- Of the cases of an edge only a response that transfers is recorded, and only if it is not OK. -/
theorem EdgeCase.faultRecord_eq {s t : State} (hc : EdgeCase s t) :
    t.faultRecord = s.faultRecord ++
      (if s.resetDone && !s.sample.rst && s.phase == .resp && s.sample.rspReady && s.rspStatus != 0#2
        then [s.rspStatus] else []) := by
  cases hc with
  | reset hr => simp [hr]
  | unspecified _ hd => simp [hd]
  | transfer _ _ hp => simp [hp]
  | idle _ _ hp => simp [hp]
  | counting _ _ hp => simp [hp]
  | done _ _ hp => simp [hp]
  | taken hr hd hp hv =>
    rw [takeResponse_faultRecord_eq_append]
    simp [hr, hd, hp, hv]
  | held _ _ _ hv => simp [hv]

/-! ### Which error a command reports (R108, R109, R110) -/

/-- The command reports WIDTH for the one cause, otherwise INDEX for the other, otherwise OK (R110). -/
abbrev ReportsByCause (widthCause indexCause : Prop) (i : Instr) (s : State) : Prop :=
  (widthCause → AnswersWith i s 2#2 0#7) ∧
  (¬ widthCause → indexCause → AnswersWith i s 3#2 0#7) ∧
  (¬ widthCause → ¬ indexCause → ∃ data, AnswersWith i s 0#2 data)

section Causes

variable {i : Instr} {s : State}

/-- A command that stands behind no check has no cause of an error. -/
theorem reportsByCause_of_ok {d : Sym} (h : AnswersWith i s 0#2 d) : ReportsByCause False False i s :=
  ⟨False.elim, fun _ => False.elim, fun _ _ => ⟨d, h⟩⟩

/-- A command behind the width check alone reports WIDTH exactly if its operands fail the check. -/
theorem reportsByCause_of_checkWidth {ok : Bool} {d : Sym} {P : Prop} (hok : ok = true ↔ P)
    (h : answerOf s.grom i = checkWidth ok (.ok d)) : ReportsByCause (¬ P) False i s := by
  obtain ⟨hfits, hwidth⟩ := answersWith_of_checkWidth hok h
  exact ⟨hwidth, fun _ => False.elim, fun hp _ => ⟨d, hfits (not_not.1 hp)⟩⟩

/-- A command with two operands behind the width check reports WIDTH if either of them is too wide. -/
theorem reportsByCause_of_checkWidth_and {w : SymWidth} {a b d : Sym}
    (h : answerOf s.grom i = checkWidth (fits a w && fits b w) (.ok d)) :
    ReportsByCause (¬ IsSymbol w a ∨ ¬ IsSymbol w b) False i s := by
  rw [← not_and_or]
  exact reportsByCause_of_checkWidth (fits_and_fits_iff w a b) h

/-- A command behind the width check and then the index check: the index counts only if the width is right. -/
theorem reportsByCause_of_checkIndex {w : SymWidth} {a d : Sym} {idx : BitVec 3}
    (h : answerOf s.grom i = checkWidth (fits a w) (checkIndex idx (widthNat w) (.ok d))) :
    ReportsByCause (¬ IsSymbol w a) (widthNat w ≤ idx.toNat) i s := by
  obtain ⟨hok, hwidth, hindex⟩ := answersWith_of_checkIndex h
  exact ⟨hwidth, fun ha hi => hindex (not_not.1 ha) (Nat.not_lt.2 hi),
    fun ha hi => ⟨d, hok (not_not.1 ha) (Nat.lt_of_not_le hi)⟩⟩

end Causes

theorem reportsByCause_grow (idx : BitVec 3) (s : State) : ReportsByCause False (4 ≤ idx.toNat) (.grow idx) s :=
  ⟨False.elim, fun _ hi => answersWith_grow_of_not_lt (Nat.not_lt.2 hi) s,
    fun _ hi => ⟨_, answersWith_grow_of_lt (Nat.lt_of_not_le hi) s⟩⟩

/-- The checks each command stands behind are those of its causes. -/
theorem reportsByCause_widthBad_indexBad (i : Instr) (s : State) : ReportsByCause (widthBad i) (indexBad i) i s := by
  cases i with
  | enc a => exact reportsByCause_of_checkWidth (fits_iff_lt a .w4) rfl
  | dec a => exact reportsByCause_of_ok (answersWith_dec s a)
  | mdist => exact reportsByCause_of_ok (answersWith_mdist s)
  | grow idx => exact reportsByCause_grow idx s
  | synd a => exact reportsByCause_of_ok (answersWith_synd s a)
  | bxor w a b => exact reportsByCause_of_checkWidth_and rfl
  | popc w a => exact reportsByCause_of_checkWidth (fits_iff_lt a w) rfl
  | getb w a idx => exact reportsByCause_of_checkIndex rfl
  | setb w a idx v => exact reportsByCause_of_checkIndex rfl
  | flipb w a idx => exact reportsByCause_of_checkIndex rfl
  | hdist w a b => exact reportsByCause_of_checkWidth_and rfl

/-! ### The statements of the family -/

/-- Settles O28: each case of an edge leaves the record or adds the one status. -/
theorem faultRecordOnlyGrows : Obligations.FaultRecordOnlyGrows :=
  fun _ _ hstep => (step_cases hstep).2.faultRecord_eq

/-- Settles O32: an instruction and a word end with a response of R62, whose error data is 0. -/
theorem errorsCarryNoData : Obligations.ErrorsCarryNoData := by
  refine ⟨fun i s t hexec herr => ?_, fun w s t hexec herr => ?_⟩
  · rw [exec_eq] at hexec
    cases hexec
    exact responseOf_data_zero _ herr
  · rw [execWord_eq] at hexec
    cases hexec
    exact wordResponse_data_zero _ _ herr

/-- Settles O33: the checks of each instruction, and Exec of a word that no row selects. -/
theorem errorCausesAndPriority : Obligations.ErrorCausesAndPriority :=
  ⟨reportsByCause_widthBad_indexBad, fun _ e s hd => execWord_of_error ⟨e, hd⟩ s⟩

end Sys2Proof.Machine
end

section
/-! PROOFS, the family of 70_reset_and_hazards.md. What a run of several edges does: the invariants it keeps, the edges a
command waits in EXEC, and the run of a list of commands; then the theorems that settle the family's statements. -/

namespace Sys2Proof.Machine

/-! ### Edges at which the host breaks a duty (R126, R129) -/

/-- A command before the first reset is refused, whatever else the host does at that edge (R126, U6). -/
theorem step_refused_of_command {s : State} (hr : s.resetDone = false) (hv : s.sample.cmdValid = true) :
    step s = .refused .commandBeforeReset := by
  simp [step, clockEdge, hr, hv]

/-- After the first reset an offer that is not held is refused, whatever else the host does at that edge (R129, U9). -/
theorem step_refused_of_offer {s : State} (hr : s.resetDone = true) (ho : s.offerHeld s.sample = false) :
    step s = .refused .offerNotHeld := by
  simp [step, clockEdge, hr, ho]

/-- A host that meets its duties gets a next state, by one of the cases of an edge. -/
theorem exists_step_of_hostObeys {s : State} (h : s.HostObeys) : ∃ t, step s = .next t := by
  obtain ⟨t, ht, -⟩ := edgeEffect_cases s
  exact ⟨t, (step_of_hostObeys h).trans ht⟩

/-! ### Reset (R123, R124) -/

theorem step_of_reset {s : State} (h : s.HostObeys) (hrst : s.sample.rst = true) : step s = .next s.tick.loadReset :=
  (step_of_hostObeys h).trans (edgeEffect_reset hrst)

theorem eq_loadReset_of_step {s t : State} (hrst : s.sample.rst = true) (h : step s = .next t) :
    t = s.tick.loadReset :=
  (step_cases h).2.eq_loadReset hrst

theorem State.cmdReady_of_rst {s : State} (h : s.sample.rst = true) : s.cmdReady = false := by
  simp [State.cmdReady, h]

theorem State.rspValid_of_rst {s : State} (h : s.sample.rst = true) : s.rspValid = false := by
  simp [State.rspValid, h]

/-- Once a reset has happened it stays so. -/
theorem EdgeCase.keeps_resetDone {s t : State} (hc : EdgeCase s t) (h : s.resetDone = true) : t.resetDone = true := by
  cases hc with
  | reset => rfl
  | _ => exact h

/-! ### Runs of several edges -/

/-- What every step keeps holds along every run. -/
theorem run_keeps {P : State → Prop} (hP : ∀ s t, P s → step s = .next t → P t) {k : Nat} {s u : State} (hs : P s)
    (hrun : Sys2Proof.core.run k s = .next u) : P u := by
  induction k generalizing s with
  | zero =>
    cases hrun
    exact hs
  | succ k ih =>
    obtain ⟨t, hstep, htail⟩ := step_of_run_succ hrun
    exact ih (hP s t hs hstep) htail

/-- A run of `j + k` edges goes on for `k` edges from the state of the first `j`. -/
theorem run_add_of_run {j : Nat} (k : Nat) {s t : State} (h : Sys2Proof.core.run j s = .next t) :
    Sys2Proof.core.run (j + k) s = Sys2Proof.core.run k t := by
  induction j generalizing s with
  | zero =>
    cases h
    rw [Nat.zero_add]
  | succ j ih =>
    obtain ⟨u, hstep, htail⟩ := step_of_run_succ h
    rw [Nat.succ_add, run_succ_of_step _ hstep]
    exact ih htail

/-- A run that ends in one more step. -/
theorem run_succ_of_run {j : Nat} {s t u : State} (h : Sys2Proof.core.run j s = .next t) (hstep : step t = .next u) :
    Sys2Proof.core.run (j + 1) s = .next u := by
  rw [run_add_of_run 1 h, run_succ_of_step 0 hstep]
  rfl

/-- After a reset edge the run matches Exec in every later state (R34, R131). -/
theorem runMatches_of_run_loadReset {s u : State} {k : Nat} (h : Sys2Proof.core.run k s.loadReset = .next u) :
    u.RunMatches := by
  have hkeeps : ∀ s t : State, s.resetDone = true ∧ s.RunInv → step s = .next t → t.resetDone = true ∧ t.RunInv := by
    intro s t ⟨hdone, hinv⟩ hstep
    obtain ⟨-, hcase⟩ := step_cases hstep
    exact ⟨hcase.keeps_resetDone hdone, hcase.keeps_runInv hinv⟩
  obtain ⟨hdone, hinv⟩ := run_keeps hkeeps ⟨s.loadReset_resetDone, fun _ => s.runMatches_loadReset⟩ h
  exact hinv hdone

/-- In a run with no command accepted nothing is in flight and nothing was answered. -/
theorem State.RunMatches.of_accepted_nil {s : State} (h : s.RunMatches) (ha : s.accepted = []) :
    s.responses = [] ∧ s.phase = .idle := by
  have hidle : s.phase = .idle := by
    by_contra hbusy
    have hlast := h.in_flight hbusy
    simp [ha] at hlast
  have hresp := h.responses_eq
  rw [State.answered_of_idle hidle, ha] at hresp
  exact ⟨hresp, hidle⟩

/-! ### A host that leaves the machine to itself for some edges (R129) -/

/-- After the first reset the host brings no reset in its next `n` samples, looks at no output and holds its
offers as it must while nothing transfers. -/
structure State.Undisturbed (s : State) (n : Nat) : Prop where
  reset_done  : s.resetDone = true
  no_look     : ∀ p ∈ s.inputs.take n, p.rst = false ∧ p.rspRead = false
  holds_offer : keepsOffers s.offered (s.inputs.take n) = true

theorem State.sample_of_inputs_nil {s : State} (h : s.inputs = []) : s.sample = s.restSample := by
  simp [State.sample, h]

theorem State.sample_of_inputs_cons {s : State} {p : PortSample} {ps : List PortSample} (h : s.inputs = p :: ps) :
    s.sample = p := by
  simp [State.sample, h]

/-- The offers of a list are held if the first sample holds the offer that stands and the others hold its own. -/
theorem keepsOffers_cons (s : State) (p : PortSample) (ps : List PortSample) :
    keepsOffers s.offered (p :: ps) =
      (s.offerHeld p && keepsOffers (if p.cmdValid then some p.cmdWord else none) ps) := by
  unfold State.offerHeld
  cases s.offered <;> rfl

theorem keepsOffers_of_no_offer {ps : List PortSample} (h : ∀ p ∈ ps, p.cmdValid = false) :
    keepsOffers none ps = true := by
  induction ps with
  | nil => rfl
  | cons p ps ih =>
    obtain ⟨hp, hps⟩ := List.forall_mem_cons.1 h
    simp [keepsOffers, hp, ih hps]

/-- A host at rest keeps its offer up. -/
theorem State.offerHeld_restSample (s : State) : s.offerHeld s.restSample = true := by
  unfold State.offerHeld State.restSample
  cases s.offered <;> simp

section Undisturbed

variable {s : State} {n : Nat} (h : s.Undisturbed (n + 1))
include h

/-- The coming edge of an undisturbed machine takes a transition of R31. -/
theorem State.Undisturbed.running : s.Running := by
  obtain ⟨hdone, hlook, hoffer⟩ := h
  have hedge : s.offerHeld s.sample = true ∧ s.sample.rst = false ∧ s.sample.rspRead = false := by
    cases hin : s.inputs with
    | nil =>
      rw [State.sample_of_inputs_nil hin]
      exact ⟨s.offerHeld_restSample, rfl, rfl⟩
    | cons p ps =>
      rw [hin, List.take_succ_cons] at hlook hoffer
      rw [keepsOffers_cons, Bool.and_eq_true] at hoffer
      rw [State.sample_of_inputs_cons hin]
      exact ⟨hoffer.1, hlook p List.mem_cons_self⟩
  obtain ⟨hheld, hrst, hread⟩ := hedge
  exact ⟨⟨fun hd => absurd (hdone.symm.trans hd) (by simp), (s.offerHeld_iff _).1 hheld,
    fun hr => absurd (hread.symm.trans hr) (by simp)⟩, hdone, hrst⟩

/-- One edge uses up one of the undisturbed samples. -/
theorem State.Undisturbed.tick : s.tick.Undisturbed n := by
  obtain ⟨hdone, hlook, hoffer⟩ := h
  refine ⟨hdone, ?_, ?_⟩ <;> rw [State.tick_inputs]
  · cases hin : s.inputs with
    | nil => simp
    | cons p ps =>
      rw [hin] at hlook
      exact fun q hq => hlook q (List.mem_cons_of_mem p hq)
  · cases hin : s.inputs with
    | nil => simp [keepsOffers]
    | cons p ps =>
      rw [hin, List.take_succ_cons, keepsOffers_cons, Bool.and_eq_true] at hoffer
      rw [State.tick_offered, State.sample_of_inputs_cons hin]
      exact hoffer.2

end Undisturbed

/-! ### A command in EXEC (R31, R130) -/

/-- What `k` edges in EXEC leave: GROM, PEND and the record of the run as they were in `s`, and `k` of the host's samples
used up. -/
structure State.SameCommand (s : State) (k : Nat) (t : State) : Prop where
  grom_eq      : t.grom = s.grom
  pend_eq      : t.pend = s.pend
  accepted_eq  : t.accepted = s.accepted
  responses_eq : t.responses = s.responses
  inputs_eq    : t.inputs = s.inputs.drop k

theorem State.SameCommand.trans {s t u : State} {j k : Nat} (hst : s.SameCommand j t) (htu : t.SameCommand k u) :
    s.SameCommand (j + k) u where
  grom_eq := htu.grom_eq.trans hst.grom_eq
  pend_eq := htu.pend_eq.trans hst.pend_eq
  accepted_eq := htu.accepted_eq.trans hst.accepted_eq
  responses_eq := htu.responses_eq.trans hst.responses_eq
  inputs_eq := by rw [htu.inputs_eq, hst.inputs_eq, List.drop_drop]

theorem State.sameCommand_countDown (s : State) : s.SameCommand 1 s.tick.countDown :=
  ⟨rfl, rfl, rfl, rfl, List.drop_one.symm⟩

theorem State.sameCommand_answer (s : State) (r : Response) : s.SameCommand 1 (s.tick.answer r) :=
  ⟨rfl, rfl, rfl, rfl, List.drop_one.symm⟩

/-- An undisturbed command stays in EXEC for as many edges as its counter is above 1. -/
theorem run_exec_counting {k n : Nat} {s : State} (h : s.Undisturbed (n + k)) (hp : s.phase = .exec)
    (hk : k < s.cycles) :
    ∃ t : State, Sys2Proof.core.run k s = .next t ∧ t.phase = .exec ∧ t.cycles + k = s.cycles ∧ t.Undisturbed n ∧
      s.SameCommand k t := by
  induction k generalizing s with
  | zero => exact ⟨s, rfl, hp, rfl, h, rfl, rfl, rfl, rfl, rfl⟩
  | succ k ih =>
    have hstep : step s = .next s.tick.countDown := by
      rw [step_of_exec h.running hp, if_neg (by omega)]
    obtain ⟨hdone, hlook, hoffer⟩ := h.tick
    obtain ⟨t, hrun, hexec, hcycles, hundist, hsame⟩ :=
      ih (s := s.tick.countDown) ⟨hdone, hlook, hoffer⟩ hp (by simp; omega)
    refine ⟨t, (run_succ_of_step k hstep).trans hrun, hexec, ?_, hundist, ?_⟩
    · rw [State.countDown_cycles, State.tick_cycles] at hcycles
      omega
    · rw [Nat.add_comm k]
      exact s.sameCommand_countDown.trans hsame

/-- An undisturbed command is in RESP with its response once the edges of its counter have passed. -/
theorem run_exec_answered {n c : Nat} {s : State} (hc : s.cycles = c + 1) (h : s.Undisturbed (n + (c + 1)))
    (hp : s.phase = .exec) :
    ∃ t : State, Sys2Proof.core.run (c + 1) s = .next t ∧ t.phase = .resp ∧
      wordResponse s.grom s.pend = ⟨t.rspStatus, t.rspData⟩ ∧ t.Undisturbed n ∧ s.SameCommand (c + 1) t := by
  rw [Nat.add_comm c, ← Nat.add_assoc] at h
  obtain ⟨t, hrun, hexec, hcycles, hundist, hsame⟩ := run_exec_counting h hp (by omega)
  have hstep : step t = .next (t.tick.answer (wordResponse s.grom s.pend)) := by
    rw [step_of_exec hundist.running hexec, if_pos (by omega), hsame.grom_eq, hsame.pend_eq]
  obtain ⟨hdone, hlook, hoffer⟩ := hundist.tick
  exact ⟨_, run_succ_of_run hrun hstep, rfl, rfl, ⟨hdone, hlook, hoffer⟩, hsame.trans (t.sameCommand_answer _)⟩

/-- A command transferred and then undisturbed is in RESP with its response after LATENCY edges more (R130). -/
theorem run_accept_answered {n : Nat} {s : State} {w : Word}
    (h : (s.accept w).Undisturbed (n + Config.latency (opField w))) :
    ∃ t : State, Sys2Proof.core.run (Config.latency (opField w)) (s.accept w) = .next t ∧ t.phase = .resp ∧
      wordResponse s.grom w = ⟨t.rspStatus, t.rspData⟩ ∧ t.Undisturbed n ∧
      (s.accept w).SameCommand (Config.latency (opField w)) t :=
  run_exec_answered (s := s.accept w) rfl h rfl

/-! ### A run of commands (R131) -/

/-- HAM74 is idle after the first reset, no offer stands, and the host's samples to come are `ps`. -/
structure State.Ready (s : State) (ps : List PortSample) : Prop where
  reset_done : s.resetDone = true
  idle       : s.phase = .idle
  no_offer   : s.offered = none
  inputs_eq  : s.inputs = ps

/-- From `s` to `t` exactly the commands `ws` were accepted, each of them was answered, and GROM is as before. -/
structure State.HasAnswered (s : State) (ws : List Word) (t : State) : Prop where
  responses_eq : t.responses = s.responses ++ ws.map (wordResponse s.grom)
  accepted_eq  : t.accepted = s.accepted ++ ws
  grom_eq      : t.grom = s.grom

theorem State.HasAnswered.refl (s : State) : s.HasAnswered [] s where
  responses_eq := by simp
  accepted_eq := by simp
  grom_eq := rfl

theorem State.HasAnswered.trans {s t u : State} {vs ws : List Word} (hst : s.HasAnswered vs t)
    (htu : t.HasAnswered ws u) : s.HasAnswered (vs ++ ws) u where
  responses_eq := by simp [htu.responses_eq, hst.responses_eq, hst.grom_eq]
  accepted_eq := by simp [htu.accepted_eq, hst.accepted_eq]
  grom_eq := htu.grom_eq.trans hst.grom_eq

/-- The samples of a command after its offer offer nothing, bring no reset and look at nothing. -/
theorem State.undisturbed_of_quiet_then_take {s : State} {n : Nat} {rest : List PortSample}
    (hdone : s.resetDone = true) (ho : s.offered = none)
    (hin : s.inputs = List.replicate n quietSample ++ takeSample :: rest) : s.Undisturbed (1 + n) := by
  have htake : s.inputs.take (1 + n) = List.replicate n quietSample ++ [takeSample] := by
    simp [hin, List.take_append, Nat.add_comm 1 n]
  have hmem : ∀ p ∈ List.replicate n quietSample ++ [takeSample], p = quietSample ∨ p = takeSample := by
    intro p hp
    simp only [List.mem_append, List.mem_singleton] at hp
    exact hp.imp_left List.eq_of_mem_replicate
  refine ⟨hdone, ?_, ?_⟩ <;> rw [htake]
  · intro p hp
    obtain rfl | rfl := hmem p hp <;> exact ⟨rfl, rfl⟩
  · rw [ho]
    refine keepsOffers_of_no_offer fun p hp => ?_
    obtain rfl | rfl := hmem p hp <;> rfl

theorem length_commandSamples (w : Word) : (commandSamples w).length = Config.latency (opField w) + 1 + 1 := by
  simp [commandSamples]

/-- One command of a run: it transfers, LATENCY edges pass, and its response transfers. -/
theorem run_commandSamples {s : State} {w : Word} {rest : List PortSample} (h : s.Ready (commandSamples w ++ rest)) :
    ∃ t : State, Sys2Proof.core.run (commandSamples w).length s = .next t ∧ t.Ready rest ∧ s.HasAnswered [w] t := by
  obtain ⟨hdone, hidle, hoffer, hin⟩ := h
  have hsample : s.sample = offerSample w := State.sample_of_inputs_cons hin
  have hrunning : s.Running := State.Undisturbed.running (n := 0)
    ⟨hdone, by simp [hin, commandSamples, offerSample], by simp [hin, hoffer, commandSamples, keepsOffers]⟩
  have hstep : step s = .next (s.tick.accept w) := by
    rw [step_of_idle hrunning hidle, hsample]
    rfl
  have hinputs : (s.tick.accept w).inputs =
      List.replicate (Config.latency (opField w)) quietSample ++ takeSample :: rest := by
    simp [hin, commandSamples]
  obtain ⟨t, hrun, hresp, hanswer, hundist, hsame⟩ :=
    run_accept_answered (State.undisturbed_of_quiet_then_take (s := s.tick.accept w) hdone rfl hinputs)
  have hleft : t.inputs = takeSample :: rest := by
    rw [hsame.inputs_eq, hinputs]
    simp
  have htake : t.sample = takeSample := State.sample_of_inputs_cons hleft
  have hlast : step t = .next t.tick.takeResponse := by
    rw [step_of_resp (hundist.running) hresp, htake]
    rfl
  refine ⟨t.tick.takeResponse, ?_, ⟨hundist.reset_done, rfl, ?_, ?_⟩, ?_, hsame.accepted_eq, hsame.grom_eq⟩
  · rw [length_commandSamples, run_succ_of_step _ hstep]
    exact run_succ_of_run hrun hlast
  · simp [htake, takeSample]
  · simp [hleft]
  · rw [State.tick_grom] at hanswer
    simp [hsame.responses_eq, hanswer]

/-- A run of commands is its commands one after another. -/
theorem run_runSamples (ws : List Word) {s : State} {rest : List PortSample} (h : s.Ready (runSamples ws ++ rest)) :
    ∃ t : State, Sys2Proof.core.run (runSamples ws).length s = .next t ∧ t.Ready rest ∧ s.HasAnswered ws t := by
  induction ws generalizing s with
  | nil => exact ⟨s, rfl, h, State.HasAnswered.refl s⟩
  | cons w ws ih =>
    have hsplit : runSamples (w :: ws) = commandSamples w ++ runSamples ws := rfl
    rw [hsplit, List.append_assoc] at h
    obtain ⟨t, hrun, hready, hone⟩ := run_commandSamples h
    obtain ⟨u, hruns, hreadyu, hmore⟩ := ih hready
    refine ⟨u, ?_, hreadyu, hone.trans hmore⟩
    rw [hsplit, List.length_append, run_add_of_run _ hrun]
    exact hruns

/-! ### The statements of the family -/

/-- Settles O13: the transfer loads the counter with LATENCY, and the host leaves the command undisturbed after it. -/
theorem answeredAfterLatency : Obligations.AnsweredAfterLatency := by
  refine ⟨fun op => Nat.succ_pos _, fun s hrun hidle hvalid hlook hoffers => ?_⟩
  have ⟨_, hdone, _⟩ := hrun
  have hstep : step s = .next (s.tick.accept s.sample.cmdWord) := by
    rw [step_of_idle hrun hidle, if_pos hvalid]
  have hundist : (s.tick.accept s.sample.cmdWord).Undisturbed (Config.latency (opField s.sample.cmdWord)) :=
    ⟨hdone, hlook, hoffers⟩
  constructor
  · intro k hpos hle
    obtain ⟨j, rfl⟩ := Nat.exists_eq_add_of_le' hpos
    obtain ⟨n, hn⟩ := Nat.exists_eq_add_of_le' (Nat.le_of_succ_le hle)
    obtain ⟨t, hrunj, hexec, -, -, hsame⟩ :=
      run_exec_counting (s := s.tick.accept s.sample.cmdWord) (k := j) (n := n) (hn ▸ hundist) rfl hle
    exact ⟨t, (run_succ_of_step j hstep).trans hrunj, hexec, hsame.pend_eq⟩
  · obtain ⟨t, hrunt, hresp, hanswer, -, -⟩ :=
      run_accept_answered (n := 0) (s := s.tick) (by rw [Nat.zero_add]; exact hundist)
    exact ⟨t, (run_succ_of_step _ hstep).trans hrunt, hresp, hanswer⟩

/-- Settles O17: the outputs look at rst first, and a reset edge leaves IDLE with an empty record. -/
theorem outputsDuringReset : Obligations.OutputsDuringReset := by
  refine ⟨fun s hrst => ⟨State.cmdReady_of_rst hrst, State.rspValid_of_rst hrst⟩, fun s t hrst hstep => ?_,
    fun s t hrst hstep hafter => ?_, fun s t hrst hstep hrun hvalid => ?_⟩ <;>
    obtain rfl := eq_loadReset_of_step hrst hstep
  · exact ⟨rfl, rfl⟩
  · rw [State.outputs_cmdReady, State.outputs_rspValid, State.cmdReady_eq_idle rfl hafter,
      State.rspValid_eq_resp rfl hafter]
    exact ⟨rfl, rfl⟩
  · exact ⟨_, step_of_idle hrun rfl, by simp [hvalid]⟩

/-- Settles O18: in the run that a reset begins, the responses are those of the commands accepted in it. -/
theorem resetAbortsCommand : Obligations.ResetAbortsCommand := by
  intro s t _ hrst hstep
  obtain rfl := eq_loadReset_of_step hrst hstep
  exact ⟨rfl, fun k u hrun hnone => (runMatches_of_run_loadReset hrun).of_accepted_nil hnone⟩

/-- Settles O22: an edge whose duties are met always has an effect, and only such an edge gives a next state. -/
theorem stepStopsOnlyForHost : Obligations.StepStopsOnlyForHost :=
  fun _ => ⟨fun ⟨_, hstep⟩ => hostObeys_of_step hstep, exists_step_of_hostObeys⟩

/-- Settles O27: the run of the list, read field by field. -/
theorem runOfCommandsIsMapExec : Obligations.RunOfCommandsIsMapExec := by
  intro s ws rest hdone hidle hoffer hin
  obtain ⟨t, hrun, hready, hans⟩ := run_runSamples ws (s := s) (rest := rest) ⟨hdone, hidle, hoffer, hin⟩
  exact ⟨t, hrun, hans.responses_eq, hans.accepted_eq, hready.idle, hans.grom_eq, hready.no_offer, hready.inputs_eq⟩

/-- Settles O16: the edge loads the reset values whatever the state. -/
theorem resetEdgeLoadsResetValues : Obligations.ResetEdgeLoadsResetValues :=
  fun _ hobeys hrst => ⟨_, step_of_reset hobeys hrst, rfl, rfl, rfl, rfl⟩

/-- Settles O20: an offer dropped or changed is not held. -/
theorem brokenOfferRefused : Obligations.BrokenOfferRefused := by
  intro s w hdone hoffer hbroken
  refine step_refused_of_offer hdone (Bool.eq_false_iff.2 fun hheld => ?_)
  obtain ⟨hvalid, hword⟩ := (s.offerHeld_iff _).1 hheld w hoffer
  obtain hdropped | hchanged := hbroken
  · exact absurd (hvalid.symm.trans hdropped) (by simp)
  · exact hchanged hword

/-- Settles O21: it is the first duty the edge checks. -/
theorem commandBeforeResetRefused : Obligations.CommandBeforeResetRefused :=
  fun _ hdone hvalid => step_refused_of_command hdone hvalid

end Sys2Proof.Machine
end
